-- ==== Sys2Proof/Word.lean ====
section
/-!
DEFINITION. The word types of the core: 32-bit words, 8-bit bytes, 5-bit register indices.
-/

namespace Sys2Proof

/-- A register value, an address, a pc value or an instruction word (00_scope.md R6, R13). -/
abbrev Word := BitVec 32

/-- The contents of one memory location (20_memory.md R39). -/
abbrev Byte := BitVec 8

/-- A register index: the index ports are 5 bits wide, so no index is out of range (10_state.md R22). -/
abbrev RegIdx := BitVec 5

end Sys2Proof
end

