-- ==== Sys2Proof/Machine/Alu.lean ====
section
/-!
DEFINITION. `simple_alu_for_arithmetic_ops`: the one arithmetic operation of the core (40_execution_cycle.md R80;
41_integer_arithmetic.md R93, R94). It has no carry, overflow or flag output.
-/

namespace Sys2Proof.Machine

/-- `sum = (a + b) mod 2^32`: the exact sum, narrowed to 32 bits (41_integer_arithmetic.md R93). -/
def aluAdd (a b : Word) : Word := BitVec.ofNat 32 (a.toNat + b.toNat)

end Sys2Proof.Machine
end

