-- ==== Sys2Proof/Config.lean ====
section
/-!
DEFINITION. What an implementation fixes (00_scope.md R9 to R11) and the one free value of the spec (20_memory.md R40).
The opcode constants of 30_encoding.md R64, `Config.opcR` and `Config.opcJ`, stand in Sys2Proof/Decode.lean.
-/

namespace Sys2Proof

/-- The elaboration-time parameters of the block (00_scope.md R9, R10; 40_execution_cycle.md R75). The model carries
them in its state, where no step changes them, so that every statement over all states is one over all values
of the parameters (DESIGN CHOICE, notes/assumptions/2.md and 3.md). -/
structure Params where
  /-- MEM_SIZE, the memory capacity in bytes. -/
  memSize : Nat
  /-- FETCH_ALIGN_CHECK: does a fetch from an address that is no multiple of 4 fault? -/
  fetchAlignCheck : Bool
deriving DecidableEq, Repr

/-- The legal range 4 ≤ MEM_SIZE ≤ 2^32 (00_scope.md R9). -/
abbrev Params.Legal (p : Params) : Prop := 4 ≤ p.memSize ∧ p.memSize ≤ 2 ^ 32

/-- The byte at an address that neither the loader nor the host has written: any value (20_memory.md R40,
93_implementation_defined.md I2). A FREE VALUE with no body, one for each address, so that a read is repeatable
(notes/assumptions/4.md, safe). -/
opaque Config.unwrittenByte : Nat → Byte

end Sys2Proof
end

