-- ==== Sys2Proof/Syntax.lean ====
section
/-!
DEFINITION. The instructions of the core, one constructor for each row of spec/opcode_table.json, and their
assembler text (30_encoding.md R73, R74; 10_state.md R19).
-/

namespace Sys2Proof

/-- The instruction set is exactly ADD and JAL (30_encoding.md R65). -/
inductive Instr where
  /-- `add rd, rs1, rs2` (41_integer_arithmetic.md R96). -/
  | add (rd rs1 rs2 : RegIdx)
  /-- `jal rd, offset`; `immJ` is the offset sign-extended to 32 bits, `imm_j` of 30_encoding.md R61
  (42_control_transfer.md R97). -/
  | jal (rd : RegIdx) (immJ : Word)
deriving DecidableEq, Repr

/-- `j offset` expands to `jal x0, offset` (30_encoding.md R74). -/
def Instr.pseudoJ (immJ : Word) : Instr := .jal 0 immJ

/-- `jal offset` expands to `jal x1, offset` (30_encoding.md R74). -/
def Instr.pseudoJal (immJ : Word) : Instr := .jal 1 immJ

/-- The name this spec writes a register with: `x0` to `x31` (10_state.md R19). -/
def regName (r : RegIdx) : String := "x" ++ toString r.toNat

/-- The RISC-V ABI names of `x0` to `x31`, which the assembler takes as aliases only
(10_state.md R19; PRESUMED by the spec, notes/assumptions/18.md). -/
def abiNames : List String :=
  ["zero", "ra", "sp", "gp", "tp", "t0", "t1", "t2", "s0", "s1", "a0", "a1", "a2", "a3", "a4", "a5"] ++
  ["a6", "a7", "s2", "s3", "s4", "s5", "s6", "s7", "s8", "s9", "s10", "s11", "t3", "t4", "t5", "t6"]

/-- The register that a name of 10_state.md R19 stands for, if it is one. -/
def regOfName (n : String) : Option RegIdx :=
  ((List.range 32).find? fun k => n == regName (BitVec.ofNat 5 k) || abiNames[k]? == some n).map
    (BitVec.ofNat 5)

/-- The assembler text of an instruction; the offset is a signed byte offset (30_encoding.md R73). -/
def Instr.toAsm : Instr → String
  | .add rd rs1 rs2 => "add " ++ regName rd ++ ", " ++ regName rs1 ++ ", " ++ regName rs2
  | .jal rd immJ => "jal " ++ regName rd ++ ", " ++ toString immJ.toInt

end Sys2Proof
end

