-- ==== Sys2Proof/WellFormed.lean ====
section
/-!
DEFINITION. Which instruction terms have an encoding: any register indices, and a J-type offset that is even and fits
21 signed bits (30_encoding.md R58, R61, R62).
-/

namespace Sys2Proof

/-- Bit 0 of a J-type immediate is always 0 (30_encoding.md R61). -/
def immEven (immJ : Word) : Bool := !immJ.getLsbD 0

/-- As a signed value the immediate lies in −2^20 .. 2^20 − 2 (30_encoding.md R62; with `immEven`, at most
2^20 − 2 and at most 2^20 − 1 say the same). -/
def immInRange (immJ : Word) : Bool := decide (-1048576 ≤ immJ.toInt) && decide (immJ.toInt ≤ 1048574)

/-- The instruction has an encoding. -/
def Instr.wellFormed : Instr → Bool
  | .add _ _ _ => true
  | .jal _ immJ => immEven immJ && immInRange immJ

end Sys2Proof
end

