-- ==== Sys2Proof/Decode.lean ====
section
/-!
DEFINITION. The `instruction_decoder`: byte order, bit fields, the two-level dispatch, the decoder, and after it the
encoder written from the same layouts (30_encoding.md; 40_execution_cycle.md R77).
-/

namespace Sys2Proof

/-! ### Named constants -/

/-- `OPC_R`, the R-type opcode (30_encoding.md R64). PRESUMED: the value is the spec's from general knowledge
(notes/assumptions/1.md, unsafe). -/
def Config.opcR : BitVec 7 := 0x33#7

/-- `OPC_J`, the J-type opcode (30_encoding.md R64). PRESUMED as `Config.opcR` is. -/
def Config.opcJ : BitVec 7 := 0x6F#7

/-! ### Byte order (20_memory.md R38) -/

/-- Four bytes to a word, little-endian: the first is the least significant. -/
def leWord (b0 b1 b2 b3 : Byte) : Word := b3 ++ b2 ++ b1 ++ b0

/-- Byte `j` (0 to 3) of a word in little-endian order: bits 8j+7 .. 8j (70_reset_and_hazards.md R126). -/
def leByte (w : Word) (j : Nat) : Byte := w.extractLsb' (8 * j) 8

/-! ### Bit fields (30_encoding.md R56, R61) -/

def opcodeOf (w : Word) : BitVec 7 := w.extractLsb' 0 7
def rdOf (w : Word) : RegIdx := w.extractLsb' 7 5
def funct3Of (w : Word) : BitVec 3 := w.extractLsb' 12 3
def rs1Of (w : Word) : RegIdx := w.extractLsb' 15 5
def rs2Of (w : Word) : RegIdx := w.extractLsb' 20 5
def funct7Of (w : Word) : BitVec 7 := w.extractLsb' 25 7

/-- `imm21`: w[31], w[19:12], w[20], w[30:21] and a zero bit (30_encoding.md R61). -/
def imm21Of (w : Word) : BitVec 21 :=
  w.extractLsb' 31 1 ++ w.extractLsb' 12 8 ++ w.extractLsb' 20 1 ++ w.extractLsb' 21 10 ++ 0#1

/-- `imm_j`, `imm21` sign-extended to 32 bits (30_encoding.md R61). -/
def immJOf (w : Word) : Word := (imm21Of w).signExtend 32

/-! ### Two-level dispatch (30_encoding.md R65, R66; 40_execution_cycle.md R77, R92) -/

/-- `iclass` of 40_execution_cycle.md R77: every word is exactly one of these (30_encoding.md R71). -/
inductive IClass where
  | add
  | jal
  | illegal
  | unimplemented
deriving DecidableEq, Repr

/-- The level-2 table over (`funct3`, `funct7`): one row (30_encoding.md R66; a table by 40_execution_cycle.md R92). -/
def rTypeTable : List ((BitVec 3 × BitVec 7) × IClass) := [((0#3, 0#7), .add)]

/-- The class of a word from its `opcode` and, for the R-type opcode alone, its (`funct3`, `funct7`). -/
def classify (opcode : BitVec 7) (funct3 : BitVec 3) (funct7 : BitVec 7) : IClass :=
  if opcode = Config.opcR then (rTypeTable.lookup (funct3, funct7)).getD .unimplemented
  else if opcode = Config.opcJ then .jal
  else .illegal

/-- The outputs of the `instruction_decoder` block (40_execution_cycle.md R77). -/
structure DecoderOutputs where
  opcode : BitVec 7
  rd : RegIdx
  funct3 : BitVec 3
  rs1 : RegIdx
  rs2 : RegIdx
  funct7 : BitVec 7
  immJ : Word
  iclass : IClass
deriving DecidableEq, Repr

/-- The decoder block: pure, total over all words, its only input the word (30_encoding.md R57). -/
def decoderOutputs (w : Word) : DecoderOutputs where
  opcode := opcodeOf w
  rd := rdOf w
  funct3 := funct3Of w
  rs1 := rs1Of w
  rs2 := rs2Of w
  funct7 := funct7Of w
  immJ := immJOf w
  iclass := classify (opcodeOf w) (funct3Of w) (funct7Of w)

/-! ### Decode -/

/-- Why the decoder gives no instruction. -/
inductive DecodeError where
  /-- An opcode that is neither `OPC_R` nor `OPC_J` (30_encoding.md R69). -/
  | illegal
  /-- The R-type opcode with a (`funct3`, `funct7`) pair that has no row (30_encoding.md R70). -/
  | unimplemented
  /-- Fewer than four bytes were given; the step's own fetch always gives four (30_encoding.md R55). -/
  | truncated
deriving DecidableEq, Repr

/-- The instruction a word holds, or why it holds none (30_encoding.md R65 to R71). -/
def decode (w : Word) : Except DecodeError Instr :=
  let d := decoderOutputs w
  match d.iclass with
  | .add => .ok (.add d.rd d.rs1 d.rs2)
  | .jal => .ok (.jal d.rd d.immJ)
  | .illegal => .error .illegal
  | .unimplemented => .error .unimplemented

/-- The instruction at the head of a byte string and the bytes after it; every instruction is four bytes long
(30_encoding.md R55, R72). -/
def decodeBytes : List Byte → Except DecodeError (Instr × List Byte)
  | b0 :: b1 :: b2 :: b3 :: rest => (decode (leWord b0 b1 b2 b3)).map fun i => (i, rest)
  | _ => .error .truncated

/-- The four bytes of a word as memory holds them. -/
def wordBytes (w : Word) : List Byte := [leByte w 0, leByte w 1, leByte w 2, leByte w 3]

/-- The instruction the decoder reads from a word numbered as spec/opcode_table.json numbers it: bits above
`nbits` are 0, the word is laid out little-endian and given to `decodeBytes`. -/
def decodeTableWord (nbits w : Nat) : Option Instr :=
  (decodeBytes (wordBytes (BitVec.ofNat 32 (w % 2 ^ nbits)))).toOption.map Prod.fst

/-! ### Encode (30_encoding.md R59, R60) -/

/-- An R-type word from its fields. -/
def packR (opcode : BitVec 7) (rd : RegIdx) (funct3 : BitVec 3) (rs1 rs2 : RegIdx) (funct7 : BitVec 7) : Word :=
  funct7 ++ rs2 ++ rs1 ++ funct3 ++ rd ++ opcode

/-- A J-type word from its fields: imm[20], imm[10:1], imm[11], imm[19:12], `rd`, `opcode`. -/
def packJ (opcode : BitVec 7) (rd : RegIdx) (immJ : Word) : Word :=
  immJ.extractLsb' 20 1 ++ immJ.extractLsb' 1 10 ++ immJ.extractLsb' 11 1 ++ immJ.extractLsb' 12 8 ++ rd ++ opcode

/-- The word of a well-formed instruction (30_encoding.md R67, R68). -/
def encode : Instr → Word
  | .add rd rs1 rs2 => packR Config.opcR rd 0#3 rs1 rs2 0#7
  | .jal rd immJ => packJ Config.opcJ rd immJ

end Sys2Proof
end

