-- ==== Sys2Proof/Machine/State.lean ====
section
/-!
DEFINITION. The state of the core as plain data, the state after reset, and the reasons a step or a host move can stop
(10_state.md; 40_execution_cycle.md R75, R87; 70_reset_and_hazards.md R123).
-/

namespace Sys2Proof.Machine

/-- The bytes that the loader or the host has written, as (address, byte) pairs with strictly rising addresses
(`Memory.wf`). An address that is not listed holds no written byte (20_memory.md R39, R40). -/
abbrev Memory := List Host.Cell

/-- The core status (10_state.md R29). -/
inductive Status where
  /-- The core performs a step whenever it is run. -/
  | ready
  /-- A fault has been taken; only reset leaves this status. -/
  | faulted
deriving DecidableEq, Repr

/-- The four causes a step can raise (60_exceptions.md R102); their codes are `Cause.code`. -/
inductive Cause where
  /-- A word whose opcode is not `OPC_R` or `OPC_J`. -/
  | illegalInstruction
  /-- An `OPC_R` word with (`funct3`, `funct7`) other than (0, 0). -/
  | unimplementedInstruction
  /-- A fetch with `pc` + 3 ≥ MEM_SIZE. -/
  | fetchOutOfBounds
  /-- A fetch with `pc[1:0]` ≠ 0 while FETCH_ALIGN_CHECK is true. -/
  | fetchMisaligned
deriving DecidableEq, Repr

/-- What `raise` carries: the cause, and the value for `fault_tval` (60_exceptions.md R107, R109). -/
structure Raised where
  cause : Cause
  tval : Word
deriving DecidableEq, Repr

/-- The state of the core and its memory (10_state.md R36). -/
structure State where
  /-- MEM_SIZE and FETCH_ALIGN_CHECK, fixed for the machine; no step changes them. The model's own field. -/
  params : Params
  /-- The register file, 32 words in index order (R18). Slot 0 is never written; `State.readReg` reads it as 0. -/
  regs : Vector Word 32
  /-- `pc`: the address of the instruction being executed (R25). -/
  pc : Word
  /-- `next_pc`: the staging register (R26). -/
  nextPc : Word
  /-- `status` (R29). -/
  status : Status
  /-- `fault_cause`, 3 bits; 0 means no fault (R30). -/
  faultCause : BitVec 3
  /-- `fault_pc` (R30). -/
  faultPc : Word
  /-- `fault_tval` (R30). -/
  faultTval : Word
  /-- `started`: set by the first step, cleared only by reset (R31). -/
  started : Bool
  /-- `trace_valid`: did the last clock edge commit a step? (40_execution_cycle.md R75, R87). -/
  traceValid : Bool
  /-- Memory (20_memory.md R37). -/
  mem : Memory
deriving DecidableEq, Repr

/-- The parameters that `State.reset` carries: FETCH_ALIGN_CHECK is true on this hardware (00_scope.md R10);
MEM_SIZE is open, and 0x1000 is the size the spec's own vectors take (R9). DESIGN CHOICE, notes/assumptions/2.md. -/
def paramsAtReset : Params where
  memSize := 0x1000
  fetchAlignCheck := true

/-- The machine right after reset (10_state.md R36; 70_reset_and_hazards.md R123): registers and `pc` zero, READY, an
empty fault record, not started, no byte of memory written. -/
def State.reset : State where
  params := paramsAtReset
  regs := Vector.replicate 32 0
  pc := 0
  nextPc := 0
  status := .ready
  faultCause := 0
  faultPc := 0
  faultTval := 0
  started := false
  traceValid := false
  mem := []

/-- Reasons a step stops outside the spec's own fault mechanism. There is none: every error condition of the core is
a fault ENTRY the spec describes, which is a next state with `status` FAULTED (60_exceptions.md R101, R107;
notes/assumptions/5.md, exact). So the type is empty. -/
inductive Fault where
deriving DecidableEq, Repr

/-- What the model refuses by name. -/
inductive Refusal where
  /-- An instruction without a meaning. Raised by an arm of `exec` only; here no arm raises it. Safe. -/
  | notModelled (mnemonic : String)
  /-- The host writes memory after the first step: the spec gives the model no such move (70_reset_and_hazards.md R130,
  93_implementation_defined.md I13). Raised by `hostWriteByte` and `loadImage`, never by an instruction. Safe. -/
  | hostWriteAfterStart
  /-- The host writes a byte at or above MEM_SIZE, or an image larger than memory (20_memory.md R42,
  70_reset_and_hazards.md R126). Raised by `hostWriteByte` and `loadImage`, never by an instruction. Safe. -/
  | hostWriteOutOfMemory
deriving DecidableEq, Repr

end Sys2Proof.Machine
end

