-- ==== Sys2Proof/Machine/Ops.lean ====
section
/-!
DEFINITION. The named operations over memory, registers, the program counter pair and the fault record
(10_state.md, 20_memory.md, 60_exceptions.md R107, 70_reset_and_hazards.md R123).
-/

namespace Sys2Proof.Machine

/-! ### Memory -/

/-- The byte written at an address, if one was. -/
def Memory.lookup : Memory → Nat → Option Byte
  | [], _ => none
  | (k, b) :: rest, a => if a = k then some b else Memory.lookup rest a

/-- Write one byte, keeping the addresses strictly rising. -/
def Memory.write : Memory → Nat → Byte → Memory
  | [], a, b => [(a, b)]
  | (k, c) :: rest, a, b =>
    if a < k then (a, b) :: (k, c) :: rest
    else if a = k then (a, b) :: rest
    else (k, c) :: Memory.write rest a b

/-- Every listed address is above `n`, and addresses rise strictly. -/
def Memory.risesAbove : Nat → Memory → Bool
  | _, [] => true
  | n, (k, _) :: rest => decide (n < k) && Memory.risesAbove k rest

/-- The canonical form: addresses rise strictly. An unlisted address holds no written byte, so no entry can equal what
an unlisted address reads as (notes/assumptions/4.md). -/
def Memory.wf : Memory → Bool
  | [] => true
  | (k, _) :: rest => Memory.risesAbove k rest

/-- Every listed address is below MEM_SIZE (20_memory.md R37). -/
def Memory.within (size : Nat) (m : Memory) : Bool := m.all fun c => decide (c.1 < size)

/-- Write bytes at rising addresses from `a` on. -/
def Memory.writeBytes : Memory → Nat → List Byte → Memory
  | m, _, [] => m
  | m, a, b :: rest => Memory.writeBytes (Memory.write m a b) (a + 1) rest

/-- `MemByte(a)` (20_memory.md R39): the byte written there, or the free value of that address (R40). -/
def State.memByte (s : State) (a : Nat) : Byte := (s.mem.lookup a).getD (Config.unwrittenByte a)

/-! ### The register file (10_state.md R18 to R22; 40_execution_cycle.md R78) -/

/-- `x[i]`: 0 for index 0, otherwise the stored value (R20). -/
def State.readReg (s : State) (i : RegIdx) : Word := if i = 0#5 then 0#32 else s.regs[i.toNat]'i.isLt

/-- `x[i] <- v`: discarded for index 0, otherwise replaces that one register (R21). -/
def State.writeReg (s : State) (i : RegIdx) (v : Word) : State :=
  { s with regs := if i = 0#5 then s.regs else s.regs.set i.toNat v i.isLt }

/-! ### The program counter sequencer (10_state.md R25 to R28; 40_execution_cycle.md R79) -/

/-- `pc_plus4`, wrapping (10_state.md R28; DESIGN CHOICE of the spec, D19, notes/assumptions/9.md, unsafe at one
address). -/
def State.pcPlus4 (s : State) : Word := s.pc + 4#32

/-- `jal_target`, wrapping on the unsigned `pc` and the sign-extended immediate (R28). -/
def State.jalTarget (s : State) (immJ : Word) : Word := s.pc + immJ

/-- `next_pc <- v`. -/
def State.writeNextPc (s : State) (v : Word) : State := { s with nextPc := v }

/-- What a step does before its instruction executes: `started <- 1`, `next_pc <- pc + 4`
(40_execution_cycle.md R82, R88). -/
def State.stage (s : State) : State := { s with started := true, nextPc := s.pcPlus4 }

/-- The end of a step that does not fault: `pc <- next_pc` (40_execution_cycle.md R84), seen on `trace_valid` (R87). -/
def State.commit (s : State) : State := { s with pc := s.nextPc, traceValid := true }

/-- Commit what a handler answers; a handler that stops commits nothing. -/
def commitOutcome : Host.Outcome State Fault Refusal → Host.Outcome State Fault Refusal
  | .next s => .next s.commit
  | .fault r => .fault r
  | .refused r => .refused r

/-- A clock edge at which nothing applies: all state holds and `trace_valid` becomes 0 (40_execution_cycle.md R87). -/
def State.hold (s : State) : State := { s with traceValid := false }

/-! ### Faults (60_exceptions.md) -/

/-- The cause codes of `fault_cause` (R102). -/
def Cause.code : Cause → BitVec 3
  | .illegalInstruction => 1
  | .unimplementedInstruction => 2
  | .fetchOutOfBounds => 3
  | .fetchMisaligned => 4

/-- FAULT ENTRY, the one operation that takes a fault (R107): the status becomes FAULTED, the record is written,
`started` is set, `trace_valid` becomes 0 (40_execution_cycle.md R87), and no register, `pc`, `next_pc` or memory byte
changes. There is no return from a fault but reset (R113): `State.resetCore`. -/
def State.takeFault (s : State) (r : Raised) : State :=
  { s with
    status := .faulted
    faultCause := r.cause.code
    faultPc := s.pc
    faultTval := r.tval
    started := true
    traceValid := false }

/-- The fault of a fetched word that holds no instruction; `fault_tval` is the word (R103, R109). The word of a step
is never truncated: the fetch gives four bytes. -/
def raisedByWord (e : DecodeError) (w : Word) : Raised :=
  match e with
  | .illegal => { cause := .illegalInstruction, tval := w }
  | .unimplemented => { cause := .unimplementedInstruction, tval := w }
  | .truncated => { cause := .illegalInstruction, tval := w }

/-! ### Instruction fetch (20_memory.md R43, R44, R49; 40_execution_cycle.md R76) -/

/-- Does the alignment check fail at `a`? -/
def misalignedFetch (p : Params) (a : Word) : Bool := p.fetchAlignCheck && decide (a.extractLsb' 0 2 ≠ 0#2)

/-- `a + 3 ≥ MEM_SIZE` in unbounded integers. -/
def outOfBoundsFetch (p : Params) (a : Word) : Bool := decide (p.memSize ≤ a.toNat + 3)

/-- The four bytes at `a` to `a + 3`, little-endian: what the memory drives on `imem_rdata`. -/
def State.wordAt (s : State) (a : Word) : Word :=
  leWord (s.memByte a.toNat) (s.memByte (a.toNat + 1)) (s.memByte (a.toNat + 2)) (s.memByte (a.toNat + 3))

/-- `fetch_word(a)`: alignment first, then bounds, then the word. -/
def State.fetchWord (s : State) (a : Word) : Except Raised Word :=
  if misalignedFetch s.params a then .error { cause := .fetchMisaligned, tval := a }
  else if outOfBoundsFetch s.params a then .error { cause := .fetchOutOfBounds, tval := a }
  else .ok (s.wordAt a)

/-- Fetch and decode the instruction at `pc`, or the one fault the step raises, in the order alignment, bounds, decode
(60_exceptions.md R110). -/
def State.fetchInstr (s : State) : Except Raised Instr :=
  match s.fetchWord s.pc with
  | .error r => .error r
  | .ok w =>
    match decode w with
    | .error e => .error (raisedByWord e w)
    | .ok i => .ok i

/-! ### Reset and placing a program -/

/-- Reset of the core (70_reset_and_hazards.md R123, R124): every register takes its reset value, memory keeps its
contents, and the parameters stay. -/
def State.resetCore (s : State) : State :=
  { State.reset with params := s.params, mem := s.mem }

/-- Store the bytes of a word at `pc`, those that lie below MEM_SIZE: what a loader does for one word
(70_reset_and_hazards.md R126). -/
def State.placeWordAtPc (s : State) (w : Word) : State :=
  { s with mem := s.mem.writeBytes s.pc.toNat ((wordBytes w).take (s.params.memSize - s.pc.toNat)) }

end Sys2Proof.Machine
end

