-- ==== Sys2Proof/Machine/Operands.lean ====
section
/-!
DEFINITION. The operand forms of the two formats (30_encoding.md R63; 40_execution_cycle.md R78). There are no others:
no immediate operand, shift amount, flag or memory operand exists, and no instruction computes a flag
(10_state.md R32), so the package has no Flags file.
-/

namespace Sys2Proof.Machine

/-- What the two read ports of the register file give for the index inputs `ra1` and `ra2`. -/
structure ReadPorts where
  rdata1 : Word
  rdata2 : Word
deriving DecidableEq, Repr

/-- R-type source operands, read together from the state before the write (40_execution_cycle.md R78, R88). -/
def State.readPorts (s : State) (ra1 ra2 : RegIdx) : ReadPorts where
  rdata1 := s.readReg ra1
  rdata2 := s.readReg ra2

/-- The register file's one write port: `wd` goes to `wa` when `we` is 1 (40_execution_cycle.md R78). -/
def State.writePort (s : State) (we : Bool) (wa : RegIdx) (wd : Word) : State :=
  if we then s.writeReg wa wd else s

end Sys2Proof.Machine
end

