-- ==== Sys2Proof/Machine/Arithmetic.lean ====
section
/-!
DEFINITION. The integer arithmetic family: ADD (41_integer_arithmetic.md).
-/

namespace Sys2Proof.Machine

/-- ADD, the handler (41_integer_arithmetic.md R96): `x[rd] <- x[rs1] + x[rs2]`, wrapping; `next_pc`, already
`pc + 4`, is not written; no flag, no exception. -/
def execAdd (rd rs1 rs2 : RegIdx) (s : State) : Host.Outcome State Fault Refusal :=
  let p := s.readPorts rs1 rs2
  .next (s.writePort true rd (aluAdd p.rdata1 p.rdata2))

end Sys2Proof.Machine
end

