-- ==== Sys2Proof/Machine/Control.lean ====
section
/-!
DEFINITION. The control transfer family: JAL (42_control_transfer.md).
-/

namespace Sys2Proof.Machine

/-- JAL, the handler (42_control_transfer.md R97): `x[rd] <- next_pc`, the already staged `pc + 4`; then
`next_pc <- pc + imm_j`, wrapping. The target is not checked here (R98); no flag, no exception. -/
def execJal (rd : RegIdx) (immJ : Word) (s : State) : Host.Outcome State Fault Refusal :=
  .next ((s.writePort true rd s.nextPc).writeNextPc (s.jalTarget immJ))

end Sys2Proof.Machine
end

