-- ==== Sys2Proof/Machine/Dispatch.lean ====
section
/-!
DEFINITION. The dispatcher's second half: each instruction to its handler (40_execution_cycle.md R83). A handler runs on
the state in which the step has staged `next_pc`, and the step commits after it.
-/

namespace Sys2Proof.Machine

def exec (i : Instr) (s : State) : Host.Outcome State Fault Refusal :=
  match i with
  | .add rd rs1 rs2 => Sys2Proof.Machine.execAdd rd rs1 rs2 s
  | .jal rd immJ => Sys2Proof.Machine.execJal rd immJ s

end Sys2Proof.Machine
end

