-- ==== Sys2Proof/Machine/Step.lean ====
section
/-!
DEFINITION. The step: fetch, stage, decode, execute, commit (40_execution_cycle.md R82 to R89). `step` is a clock edge with
rst = 0 and run = 1 (R87); the other edges are in Sys2Proof/Machine/Clock.lean.
-/

namespace Sys2Proof.Machine

/-- `Step()` of 40_execution_cycle.md R88, for a core whose status is READY. A step that faults discards the staged
`next_pc` (R85): the fault is taken in the state before the step. -/
def performStep (s : State) : Host.Outcome State Fault Refusal :=
  match s.fetchInstr with
  | .error r => .next (s.takeFault r)
  | .ok i => commitOutcome (exec i s.stage)

/-- A clock edge with rst = 0 and run = 1 (40_execution_cycle.md R87): READY performs one step; FAULTED performs none,
and only `trace_valid` becomes 0. -/
def step (s : State) : Host.Outcome State Fault Refusal :=
  match s.status with
  | .ready => performStep s
  | .faulted => .next s.hold

/-- `s` with the instruction whose bits are `w` (those above `nbits` zero) stored at `pc`, where the next step fetches
(20_memory.md R41; notes/assumptions/11.md). -/
def State.withFetchWord (s : State) (nbits w : Nat) : State :=
  s.placeWordAtPc (BitVec.ofNat 32 (w % 2 ^ nbits))

end Sys2Proof.Machine
end

