-- ==== Sys2Proof/Machine/Clock.lean ====
section
/-!
DEFINITION. The ports of the CORE block, one clock edge with its priorities, and what the host may do: reset, seed, load
memory, run, observe (40_execution_cycle.md R75, R76, R87; 70_reset_and_hazards.md R122 to R130; 60_exceptions.md R112, R121).
-/

namespace Sys2Proof.Machine

/-- The input ports sampled at a clock edge (40_execution_cycle.md R75). -/
structure Inputs where
  rst : Bool
  run : Bool
  seedWe : Bool
  seedIdx : RegIdx
  seedData : Word
deriving DecidableEq, Repr

/-- The output ports (40_execution_cycle.md R75). -/
structure Outputs where
  imemAddr : Word
  traceValid : Bool
  tracePc : Word
  traceRegs : Vector Word 32
  faulted : Bool
  faultCause : BitVec 3
  faultPc : Word
  faultTval : Word
deriving DecidableEq, Repr

/-- What the block drives on its outputs in a state; `x0` reads 0 on the trace. -/
def State.outputs (s : State) : Outputs where
  imemAddr := s.pc
  traceValid := s.traceValid
  tracePc := s.pc
  traceRegs := Vector.ofFn fun k => s.readReg (BitVec.ofNat 5 k.val)
  faulted := decide (s.status = .faulted)
  faultCause := s.faultCause
  faultPc := s.faultPc
  faultTval := s.faultTval

/-- `imem_rdata`, valid only when all four bytes lie below MEM_SIZE (40_execution_cycle.md R75). -/
def State.imemRdata (s : State) : Option Word :=
  if outOfBoundsFetch s.params s.pc then none else some (s.wordAt s.pc)

/-- The outputs of the `fetch_unit` block (40_execution_cycle.md R76): `instr` matters only where `fetchFault` is none. -/
structure FetchOutputs where
  instr : Option Word
  fetchFault : Option Cause
deriving DecidableEq, Repr

/-- The `fetch_unit` block: the checks of `fetch_word` on `pc`, and `imem_rdata` passed on when neither fails. -/
def State.fetchUnit (s : State) : FetchOutputs :=
  match s.fetchWord s.pc with
  | .error r => { instr := none, fetchFault := some r.cause }
  | .ok w => { instr := some w, fetchFault := none }

/-- May the host seed a register at this edge? (70_reset_and_hazards.md R127). -/
def seedApplies (i : Inputs) (s : State) : Bool := !i.run && i.seedWe && !s.started

/-- One rising clock edge, in priority order: reset, a step, a register seed, hold (40_execution_cycle.md R87). -/
def clockEdge (i : Inputs) (s : State) : Host.Outcome State Fault Refusal :=
  if i.rst then .next s.resetCore
  else if i.run && decide (s.status = .ready) then step s
  else if seedApplies i s then .next (s.hold.writeReg i.seedIdx i.seedData)
  else .next s.hold

/-- A run of clock edges, one for each list entry: the fuel of 40_execution_cycle.md R90. -/
def clockRun : List Inputs → State → Host.Outcome State Fault Refusal
  | [], s => .next s
  | i :: rest, s =>
    match clockEdge i s with
    | .next t => clockRun rest t
    | .fault r => .fault r
    | .refused r => .refused r

/-- The host or the loader writes one byte through the memory's own port, before the first step only
(70_reset_and_hazards.md R126, R130). After it, or outside memory, the model has no such move
(93_implementation_defined.md I13; notes/assumptions/8.md, safe). -/
def hostWriteByte (a : Nat) (b : Byte) (s : State) : Host.Outcome State Fault Refusal :=
  if s.started then .refused .hostWriteAfterStart
  else if s.params.memSize ≤ a then .refused .hostWriteOutOfMemory
  else .next { s with mem := s.mem.write a b }

/-- The program loader: word `k` of the image at bytes 4k to 4k + 3 in little-endian order, before the first step, if
the whole image fits (70_reset_and_hazards.md R126). -/
def loadImage (image : List Word) (s : State) : Host.Outcome State Fault Refusal :=
  if s.started then .refused .hostWriteAfterStart
  else if s.params.memSize < 4 * image.length then .refused .hostWriteOutOfMemory
  else .next { s with mem := s.mem.writeBytes 0 (image.flatMap wordBytes) }

end Sys2Proof.Machine
end

