-- ==== Sys2Proof/Machine/Pseudocode.lean ====
section
/-!
DEFINITION. The step a second time, written straight down from the pseudocode of 40_execution_cycle.md R88 in natural-number
arithmetic, for a statement that the two agree. Nothing executes it; `step` is the model.
-/

namespace Sys2Proof.Machine

/-- `raise` with a cause code (60_exceptions.md R107). -/
def pseudoRaise (s : State) (code : Nat) (tval : Nat) : State :=
  { s with
    status := .faulted
    faultCause := BitVec.ofNat 3 code
    faultPc := s.pc
    faultTval := BitVec.ofNat 32 tval
    started := true
    traceValid := false }

/-- The register file after `x[rd] <- v` and the two program counters after the commit, which makes them equal. -/
def pseudoCommit (s : State) (rd v target : Nat) : State :=
  { s.writeReg (BitVec.ofNat 5 rd) (BitVec.ofNat 32 v) with
    pc := BitVec.ofNat 32 target
    nextPc := BitVec.ofNat 32 target
    started := true
    traceValid := true }

/-- `imm_j` as a number below 2^32, from the four ranges of the word (30_encoding.md R61). -/
def pseudoImmJ (w : Nat) : Nat :=
  let imm21 := w / 2 ^ 31 % 2 * 2 ^ 20 + w / 2 ^ 12 % 2 ^ 8 * 2 ^ 12 + w / 2 ^ 20 % 2 * 2 ^ 11 + w / 2 ^ 21 % 2 ^ 10 * 2
  if imm21 < 2 ^ 20 then imm21 else imm21 + (2 ^ 32 - 2 ^ 21)

/-- The word at `pc` as a number: little-endian digits of base 256 (20_memory.md R38, R43). -/
def pseudoFetch (s : State) : Nat :=
  (s.memByte s.pc.toNat).toNat + 2 ^ 8 * (s.memByte (s.pc.toNat + 1)).toNat +
    2 ^ 16 * (s.memByte (s.pc.toNat + 2)).toNat + 2 ^ 24 * (s.memByte (s.pc.toNat + 3)).toNat

/-- Decode, dispatch, execute and commit of a fetched word. -/
def pseudoExecute (s : State) (w : Nat) : State :=
  let rd := w / 2 ^ 7 % 32
  let pcPlus4 := (s.pc.toNat + 4) % 2 ^ 32
  if w % 128 = 0x33 then
    if w / 2 ^ 12 % 8 = 0 ∧ w / 2 ^ 25 = 0 then
      let rs1 := s.readReg (BitVec.ofNat 5 (w / 2 ^ 15 % 32))
      let rs2 := s.readReg (BitVec.ofNat 5 (w / 2 ^ 20 % 32))
      pseudoCommit s rd ((rs1.toNat + rs2.toNat) % 2 ^ 32) pcPlus4
    else pseudoRaise s 2 w
  else if w % 128 = 0x6F then pseudoCommit s rd pcPlus4 ((s.pc.toNat + pseudoImmJ w) % 2 ^ 32)
  else pseudoRaise s 1 w

/-- `Step()` of 40_execution_cycle.md R88. -/
def pseudoStep (s : State) : State :=
  if s.params.fetchAlignCheck = true ∧ s.pc.toNat % 4 ≠ 0 then pseudoRaise s 4 s.pc.toNat
  else if s.params.memSize ≤ s.pc.toNat + 3 then pseudoRaise s 3 s.pc.toNat
  else pseudoExecute s (pseudoFetch s)

end Sys2Proof.Machine
end

