-- ==== Sys2Proof/Safety.lean ====
section
/-!
DEFINITION. The terms claims use: the invariant of every state a run reaches, the launch state, a committed and a faulted
step, and sequences of register writes.
-/

namespace Sys2Proof.Machine

/-- The fault record of a FAULTED core tells of the fault that its own `pc` raises, so that a retry would reproduce the
identical fault (60_exceptions.md R107, R109, R113; 40_execution_cycle.md R89). -/
def State.RecordsItsFault (s : State) : Prop :=
  ∃ r, s.fetchInstr = .error r ∧ s.faultCause = r.cause.code ∧ s.faultTval = r.tval ∧ s.faultPc = s.pc

/-- What holds in every state that reset and any clock edges and host moves lead to. -/
structure State.Inv (s : State) : Prop where
  /-- 4 ≤ MEM_SIZE ≤ 2^32 (00_scope.md R9). -/
  params : s.params.Legal
  /-- Memory keeps its canonical form. -/
  memWf : s.mem.wf = true
  /-- Only addresses below MEM_SIZE hold bytes (20_memory.md R37, R42). -/
  memWithin : s.mem.within s.params.memSize = true
  /-- The hard-wired register's slot is never written (10_state.md R21, R24). -/
  slotZero : s.regs[0] = 0
  /-- `pc` is always even (10_state.md R28). -/
  pcEven : s.pc.getLsbD 0 = false
  /-- Between steps `next_pc` equals `pc` (10_state.md R26, R27; 60_exceptions.md R107). -/
  nextPc : s.nextPc = s.pc
  /-- READY holds no fault record (10_state.md R30). -/
  ready : s.status = .ready → s.faultCause = 0 ∧ s.faultPc = 0 ∧ s.faultTval = 0
  /-- FAULTED holds the record of its fault, after a first step (60_exceptions.md R107). -/
  faulted : s.status = .faulted → s.started = true ∧ s.RecordsItsFault
  /-- `pc` leaves 0 only in a step (10_state.md R25, R31). -/
  notStarted : s.started = false → s.pc = 0
  /-- `trace_valid` is seen only after a step that committed (40_execution_cycle.md R87). -/
  trace : s.traceValid = true → s.started = true ∧ s.status = .ready

/-- The launch state, but for its registers and memory (70_reset_and_hazards.md R128). -/
structure State.Launch (s : State) : Prop where
  pc : s.pc = 0
  nextPc : s.nextPc = 0
  status : s.status = .ready
  faultCause : s.faultCause = 0
  faultPc : s.faultPc = 0
  faultTval : s.faultTval = 0
  started : s.started = false
  x0 : s.readReg 0 = 0

/-- `t` is what a committed step from `s` with next pc `target` leaves outside the registers
(40_execution_cycle.md R84, R85, R89). -/
structure Committed (s t : State) (target : Word) : Prop where
  pc : t.pc = target
  nextPc : t.nextPc = target
  status : t.status = .ready
  faultCause : t.faultCause = s.faultCause
  faultPc : t.faultPc = s.faultPc
  faultTval : t.faultTval = s.faultTval
  started : t.started = true
  traceValid : t.traceValid = true
  params : t.params = s.params
  memory : t.mem = s.mem
  bytes : ∀ a, t.memByte a = s.memByte a

/-- `t` is `s` after fault entry with a cause code and a value for `fault_tval`: those five pieces of state, and
`trace_valid`, and nothing else (60_exceptions.md R107; 40_execution_cycle.md R87). -/
def Faulted (s t : State) (code : BitVec 3) (tval : Word) : Prop :=
  t = { s with
    status := .faulted
    faultCause := code
    faultPc := s.pc
    faultTval := tval
    started := true
    traceValid := false }

/-- Register writes in order. -/
def writeRegs (ws : List (RegIdx × Word)) (s : State) : State := ws.foldl (fun t w => t.writeReg w.1 w.2) s

/-- The value last written to a register by a list of writes, or `old` if none is to it. -/
def lastWrite (ws : List (RegIdx × Word)) (i : RegIdx) (old : Word) : Word :=
  ws.foldl (fun v w => if w.1 = i then w.2 else v) old

/-- The clock edges at which the host seeds registers, one for each pair (70_reset_and_hazards.md R127). -/
def seedEdges (ws : List (RegIdx × Word)) : List Inputs :=
  ws.map fun w => { rst := false, run := false, seedWe := true, seedIdx := w.1, seedData := w.2 }

/-- The clock edge of reset, whatever the other inputs are (70_reset_and_hazards.md R122). -/
def resetEdge (i : Inputs) : Inputs := { i with rst := true }

end Sys2Proof.Machine
end

