-- ==== Sys2Proof/Certificates/Slice0/Obligations.lean ====
section
/-!
DEFINITION. The statements for the provers. Each docstring names the rules of spec/ it formalises; a docstring that says
"derived" also names what is the spec's own decision or the model's choice.
-/

open Sys2Proof Sys2Proof.Machine

/-! ### Encoding -/

/-- Words of 95_test_vectors.md 2.1 and 2.2, written out from the layouts of 30_encoding.md R59 and R60, decode to what they
stand for. Derived: the opcode values are general knowledge of the spec (R64, log 1). -/
def Obligations.SpecWordsDecode : Prop :=
  decode 0b0000000_00010_00001_000_00011_0110011#32 = .ok (.add 3 1 2) ∧
  decode 0b0000000_00000_00000_000_00000_0110011#32 = .ok (.add 0 0 0) ∧
  decode 0b1_1111111110_1_11111111_00001_1101111#32 = .ok (.jal 1 0xFFFFFFFC) ∧
  decode 0b0_1111111111_1_11111111_00001_1101111#32 = .ok (.jal 1 0x000FFFFE) ∧
  decode 0b1_0000000000_0_00000000_00001_1101111#32 = .ok (.jal 1 0xFFF00000) ∧
  decode 0b0_0000000000_1_00000000_00000_1101111#32 = .ok (.jal 0 0x00000800) ∧
  decode 0b0_0000000000_0_00000001_00000_1101111#32 = .ok (.jal 0 0x00001000) ∧
  decode 0b0100000_00010_00001_000_00011_0110011#32 = .error .unimplemented ∧
  decode 0b0000000_00010_00001_001_00011_0110011#32 = .error .unimplemented ∧
  decode 0x00000013#32 = .error .illegal ∧ decode 0x00000000#32 = .error .illegal ∧
  decode 0xFFFFFFFF#32 = .error .illegal

/-- 30_encoding.md R58: for all field values, packing the fields of a format and extracting them gives them back, for the
R-type tuple and for the J-type tuple (an even immediate in the range of R62); the fields of each format together cover
all 32 bits of any word; and decode of encode is the identity on every well-formed instruction. -/
def Obligations.EncodingInvertible : Prop :=
  (∀ (op : BitVec 7) (rd : RegIdx) (f3 : BitVec 3) (rs1 rs2 : RegIdx) (f7 : BitVec 7),
    let w := packR op rd f3 rs1 rs2 f7
    opcodeOf w = op ∧ rdOf w = rd ∧ funct3Of w = f3 ∧ rs1Of w = rs1 ∧ rs2Of w = rs2 ∧ funct7Of w = f7) ∧
  (∀ (op : BitVec 7) (rd : RegIdx) (immJ : Word), immEven immJ = true → immInRange immJ = true →
    let w := packJ op rd immJ
    opcodeOf w = op ∧ rdOf w = rd ∧ immJOf w = immJ) ∧
  (∀ w : Word, packR (opcodeOf w) (rdOf w) (funct3Of w) (rs1Of w) (rs2Of w) (funct7Of w) = w ∧
    packJ (opcodeOf w) (rdOf w) (immJOf w) = w) ∧
  (∀ i : Instr, i.wellFormed = true → decode (encode i) = .ok i)

/-- The other direction: a word that decodes is the encoding of what it decodes to, and that is well-formed, so no bit of
a word is dropped. Derived from 30_encoding.md R58, R67, R68 and R71. -/
def Obligations.DecodedWordIsItsEncoding : Prop :=
  ∀ (w : Word) (i : Instr), decode w = .ok i → i.wellFormed = true ∧ encode i = w

/-- Every word is exactly one of ADD, JAL, unrecognized and unimplemented, by the masks of the opcode table. Derived from
30_encoding.md R67 to R71; the opcode values are general knowledge of the spec (R64, log 1). -/
def Obligations.EveryWordIsOneOfFour : Prop :=
  ∀ w : Word,
    decode w =
      if w &&& 0xFE00707F#32 = 0x00000033#32 then
        .ok (.add (w.extractLsb' 7 5) (w.extractLsb' 15 5) (w.extractLsb' 20 5))
      else if w &&& 0x0000007F#32 = 0x0000006F#32 then .ok (.jal (w.extractLsb' 7 5) (immJOf w))
      else if w &&& 0x0000007F#32 = 0x00000033#32 then .error .unimplemented
      else .error .illegal

/-- 30_encoding.md R66: the pair (0, 0) selects ADD, every other pair is unimplemented, and `rd`, `rs1`, `rs2` play no
part. -/
def Obligations.RTypeDispatchByFunctPair : Prop :=
  ∀ (rd : RegIdx) (f3 : BitVec 3) (rs1 rs2 : RegIdx) (f7 : BitVec 7),
    decode (packR Config.opcR rd f3 rs1 rs2 f7) =
      if f3 = 0#3 ∧ f7 = 0#7 then .ok (.add rd rs1 rs2) else .error .unimplemented

/-- 30_encoding.md R61, bit by bit: which bit of the word each bit of `imm_j` is, the sign bit 31 replicated above bit 19
and bit 0 always 0; and `imm_j` is the offset a J-type word decodes to. -/
def Obligations.JImmediateBitLayout : Prop :=
  ∀ w : Word,
    (∀ k, k < 32 → (immJOf w).getLsbD k =
      if k = 0 then false
      else if k ≤ 10 then w.getLsbD (k + 20)
      else if k = 11 then w.getLsbD 20
      else if k ≤ 19 then w.getLsbD k
      else w.getLsbD 31) ∧
    (opcodeOf w = Config.opcJ → decode w = .ok (.jal (rdOf w) (immJOf w)))

/-- 30_encoding.md R62: as a signed value `imm_j` is even and lies in −2^20 .. 2^20 − 2, and every even value in that
range is encodable in a J-type word, with any `rd`. Derived, as R62 is. -/
def Obligations.JImmediateRange : Prop :=
  (∀ w : Word, (immJOf w).toInt % 2 = 0 ∧ -1048576 ≤ (immJOf w).toInt ∧ (immJOf w).toInt ≤ 1048574) ∧
  (∀ (z : Int) (rd : RegIdx), z % 2 = 0 → -1048576 ≤ z → z ≤ 1048574 →
    ∃ w : Word, opcodeOf w = Config.opcJ ∧ rdOf w = rd ∧ (immJOf w).toInt = z)

/-! ### Registers and the ALU -/

/-- 10_state.md R20: after any writes in any order `x[i]` reads 0 for index 0 and otherwise the value most recently
stored in register `i`; after reset every register reads 0. -/
def Obligations.RegisterReadsLastWrite : Prop :=
  (∀ (ws : List (RegIdx × Word)) (s : State) (i : RegIdx),
    (writeRegs ws s).readReg i = if i = 0#5 then 0#32 else lastWrite ws i (s.readReg i)) ∧
  (∀ (s : State) (i : RegIdx), s.resetCore.readReg i = 0#32)

/-- 10_state.md R21: a write to index 0 changes nothing at all; any other write replaces that register and changes no
other register and no other state. -/
def Obligations.RegisterWriteChangesOneSlot : Prop :=
  ∀ (s : State) (i : RegIdx) (v : Word),
    s.writeReg 0#5 v = s ∧
    (i ≠ 0#5 → (s.writeReg i v).readReg i = v) ∧
    (∀ j, j ≠ i → (s.writeReg i v).readReg j = s.readReg j) ∧
    s.writeReg i v = { s with regs := (s.writeReg i v).regs }

/-- The ALU's sum is the low 32 bits of the sum (41_integer_arithmetic.md R93), the same whether the operands are read as
unsigned or as signed. Derived: the signed clause is an inference that R93 marks as its own ("[derived: the signedness
remark from the modulo definition]"). -/
def Obligations.AluAddsModulo : Prop :=
  ∀ a b : Word,
    (aluAdd a b).toNat = (a.toNat + b.toNat) % 2 ^ 32 ∧
    (aluAdd a b).toInt = (a.toInt + b.toInt).bmod (2 ^ 32)

/-! ### Instructions: completion, result and frame -/

/-- ADD answers a next state in every state, for every operand: `rd` gets the wrapping sum of the sources as they were
before, a write to x0 is discarded, and the register file is all that changes: no flag exists, `next_pc`, `pc`, the
status, the fault record and every byte of memory stay. Derived from 41_integer_arithmetic.md R96, R94 and
40_execution_cycle.md R85 (the handler alone; the whole step is AddStepCommits). -/
def Obligations.AddCompletes : Prop :=
  ∀ (s : State) (rd rs1 rs2 : RegIdx), ∃ t, exec (.add rd rs1 rs2) s = .next t ∧
    (∀ r, t.readReg r =
      if r = 0#5 then 0#32
      else if r = rd then BitVec.ofNat 32 (((s.readReg rs1).toNat + (s.readReg rs2).toNat) % 2 ^ 32)
      else s.readReg r) ∧
    t = { s with regs := t.regs } ∧
    (∀ a, t.memByte a = s.memByte a)

/-- JAL answers a next state in every state, for every operand: `rd` gets the staged `next_pc`, `next_pc` gets
`pc + imm_j`, and nothing else changes. Derived from 42_control_transfer.md R97 and 40_execution_cycle.md R85 (the
handler alone; the whole step is JalStepCommits). -/
def Obligations.JalCompletes : Prop :=
  ∀ (s : State) (rd : RegIdx) (immJ : Word), ∃ t, exec (.jal rd immJ) s = .next t ∧
    (∀ r, t.readReg r = if r = 0#5 then 0#32 else if r = rd then s.nextPc else s.readReg r) ∧
    t = { s with regs := t.regs, nextPc := BitVec.ofNat 32 ((s.pc.toNat + immJ.toNat) % 2 ^ 32) } ∧
    (∀ a, t.memByte a = s.memByte a)

/-- The whole step of 41_integer_arithmetic.md R96: a fetched word that matches ADD's row commits, for every value of its
fields; `x[rd]` is the wrapping sum of the sources read before the write, x0 stays 0, `pc` advances by 4 modulo 2^32,
and nothing else changes but `next_pc`, `started` and `trace_valid`. An R-type word with any other (funct3, funct7) is
not ADD and takes UNIMPLEMENTED_INSTRUCTION. Derived: beside R96 it rests on the opcode value (30_encoding.md R64, D1,
log 1), the wrap of `pc + 4` (10_state.md R28, D19, log 9), `started` (10_state.md R31, D12, log 15) and `trace_valid`
(40_execution_cycle.md R87, D14, log 10); and its second clause on fault entry, the code 2 and the recorded word
(60_exceptions.md R102, R107, R109, D5, D6, D8, D24, logs 5 and 12). -/
def Obligations.AddStepCommits : Prop :=
  ∀ (s : State) (w : Word), s.status = .ready → s.fetchWord s.pc = .ok w →
    (w &&& 0xFE00707F#32 = 0x00000033#32 →
      ∃ t, step s = .next t ∧ Committed s t (BitVec.ofNat 32 ((s.pc.toNat + 4) % 2 ^ 32)) ∧
        ∀ r, t.readReg r =
          if r = 0#5 then 0#32
          else if r = w.extractLsb' 7 5 then
            BitVec.ofNat 32 (((s.readReg (w.extractLsb' 15 5)).toNat + (s.readReg (w.extractLsb' 20 5)).toNat) % 2 ^ 32)
          else s.readReg r) ∧
    (w &&& 0x0000007F#32 = 0x00000033#32 → w &&& 0xFE00707F#32 ≠ 0x00000033#32 →
      ∃ t, step s = .next t ∧ Faulted s t 2#3 w)

/-- The whole step of 42_control_transfer.md R97 and R98: a fetched word that matches JAL's row commits, for every value
of its fields and whatever its target; `x[rd]` is `pc + 4`, x0 stays 0, `pc` becomes `pc + imm_j`, both modulo 2^32,
and nothing else changes but `next_pc`, `started` and `trace_valid`. A target that is not aligned or lies outside
memory faults at the fetch of the next step. Derived: beside R97 it rests on the opcode value (30_encoding.md R64, D1,
log 1), the wrap of the link (10_state.md R28, D19, log 9), `started` (10_state.md R31, D12, log 15) and `trace_valid`
(40_execution_cycle.md R87, D14, log 10); and its two clauses about the next step on R98, 20_memory.md R43, R44 and
60_exceptions.md R102, R107, R109 (D3 to D8, logs 3, 5, 12 and 13). -/
def Obligations.JalStepCommits : Prop :=
  ∀ (s : State) (w : Word), s.status = .ready → s.fetchWord s.pc = .ok w → w &&& 0x0000007F#32 = 0x0000006F#32 →
    ∃ t, step s = .next t ∧
      Committed s t (s.pc + BitVec.signExtend 32
        (w.extractLsb' 31 1 ++ w.extractLsb' 12 8 ++ w.extractLsb' 20 1 ++ w.extractLsb' 21 10 ++ 0#1)) ∧
      (∀ r, t.readReg r =
        if r = 0#5 then 0#32 else if r = w.extractLsb' 7 5 then s.pc + 4#32 else s.readReg r) ∧
      (s.params.fetchAlignCheck = true → t.pc.toNat % 4 ≠ 0 → ∃ u, step t = .next u ∧ Faulted t u 4#3 t.pc) ∧
      ((s.params.fetchAlignCheck = true → t.pc.toNat % 4 = 0) → s.params.memSize ≤ t.pc.toNat + 3 →
        ∃ u, step t = .next u ∧ Faulted t u 3#3 t.pc)

/-- `jal x0, 0` at `pc` is an endless loop: after any number of enabled clock edges, at least one, the state is the state
before with `started` and `trace_valid` set and `next_pc` equal to `pc`. It is about this one word. Derived from
42_control_transfer.md R97 and 40_execution_cycle.md R87, R90; the opcode value is log 1 (30_encoding.md R64, D1),
enabled edges are the spec's decision D9 (logs 6 and 15), `started` is D12 (10_state.md R31, log 15) and `trace_valid`
D14 (60_exceptions.md R121, log 10). -/
def Obligations.SelfJumpLoopsForever : Prop :=
  ∀ (ins : List Inputs) (s : State), s.status = .ready → s.fetchWord s.pc = .ok 0x0000006F#32 → ins ≠ [] →
    (∀ i ∈ ins, i.rst = false ∧ i.run = true) →
    clockRun ins s = .next { s with started := true, traceValid := true, nextPc := s.pc }

/-- JAL reads no register: with other register contents it goes to the same place and links the same value, and leaves
the other registers as they were. Derived from 10_state.md R23 and 42_control_transfer.md R97; the opcode value in its
hypothesis is general knowledge of the spec (30_encoding.md R64, R68, D1, log 1). -/
def Obligations.JalIgnoresRegisters : Prop :=
  ∀ (s t : State) (w : Word) (regs : Vector Word 32), s.status = .ready → s.fetchWord s.pc = .ok w →
    w &&& 0x0000007F#32 = 0x0000006F#32 → step s = .next t →
    ∃ u, step { s with regs := regs } = .next u ∧ u = { t with regs := u.regs } ∧
      u.readReg (w.extractLsb' 7 5) = t.readReg (w.extractLsb' 7 5) ∧
      ∀ r, r ≠ w.extractLsb' 7 5 → u.readReg r = State.readReg { s with regs := regs } r

/-- ADD reads its two sources and no other register: contents that agree on them give the same sum and the same next
`pc`. Derived from 10_state.md R23 and 41_integer_arithmetic.md R96; the opcode value in its hypothesis is general
knowledge of the spec (30_encoding.md R64, R67, D1, log 1). -/
def Obligations.AddReadsOnlyItsSources : Prop :=
  ∀ (s t : State) (w : Word) (regs : Vector Word 32), s.status = .ready → s.fetchWord s.pc = .ok w →
    w &&& 0xFE00707F#32 = 0x00000033#32 → step s = .next t →
    State.readReg { s with regs := regs } (w.extractLsb' 15 5) = s.readReg (w.extractLsb' 15 5) →
    State.readReg { s with regs := regs } (w.extractLsb' 20 5) = s.readReg (w.extractLsb' 20 5) →
    ∃ u, step { s with regs := regs } = .next u ∧ u = { t with regs := u.regs } ∧
      u.readReg (w.extractLsb' 7 5) = t.readReg (w.extractLsb' 7 5) ∧
      ∀ r, r ≠ w.extractLsb' 7 5 → u.readReg r = State.readReg { s with regs := regs } r

/-! ### Fetch and the step -/

/-- `fetch_word` by its cases: alignment first, then bounds in unbounded integers (so it never wraps), then four bytes
in little-endian order. Derived from 20_memory.md R43, R44, R49 and R38: the bound, the order of the checks and the
alignment fault are the spec's decisions D3, D7, D4 (logs 12, 13, 3). -/
def Obligations.FetchWordByCases : Prop :=
  ∀ (s : State) (a : Word),
    if s.params.fetchAlignCheck = true ∧ a.toNat % 4 ≠ 0 then
      s.fetchWord a = .error { cause := .fetchMisaligned, tval := a }
    else if s.params.memSize ≤ a.toNat + 3 then s.fetchWord a = .error { cause := .fetchOutOfBounds, tval := a }
    else ∃ w, s.fetchWord a = .ok w ∧
      w.toNat = (s.memByte a.toNat).toNat + 2 ^ 8 * (s.memByte (a.toNat + 1)).toNat +
        2 ^ 16 * (s.memByte (a.toNat + 2)).toNat + 2 ^ 24 * (s.memByte (a.toNat + 3)).toNat

/-- The `fetch_unit` block agrees with the fetch the step makes, and passes on `imem_rdata` when no check fails. Derived
from 40_execution_cycle.md R76 and R75 (the spec's decision D10, log 16). -/
def Obligations.FetchUnitPassesMemoryWord : Prop :=
  ∀ s : State,
    (s.fetchUnit.fetchFault = none → s.fetchUnit.instr = s.imemRdata ∧ ∃ w, s.imemRdata = some w ∧ s.fetchWord s.pc = .ok w) ∧
    (∀ c, s.fetchUnit.fetchFault = some c → s.fetchUnit.instr = none ∧ s.fetchWord s.pc = .error { cause := c, tval := s.pc })

/-- When the word at `pc` decodes to a well-formed instruction, the step is that instruction's `exec` on the state with
`started` set and `next_pc` staged at `pc + 4`, followed by the commit `pc <- next_pc` that `trace_valid` shows. Derived
from 40_execution_cycle.md R82 to R84 and R88. -/
def Obligations.StepRunsDecodedInstruction : Prop :=
  ∀ (s : State) (w : Word) (i : Instr), s.status = .ready → s.fetchWord s.pc = .ok w → decode w = .ok i →
    i.wellFormed = true →
    step s =
      match exec i { s with started := true, nextPc := s.pc + 4#32 } with
      | .next t => .next { t with pc := t.nextPc, traceValid := true }
      | .fault r => .fault r
      | .refused r => .refused r

/-- The step is the pseudocode of 40_execution_cycle.md R88, written a second time in natural-number arithmetic from the
word's digits, in every READY state. Derived: beside R88 it rests on the opcode values (30_encoding.md R64, D1, log 1),
the bounds condition, the alignment check and the order of the checks (20_memory.md R43, 60_exceptions.md R105, R110,
D3, D4, D7, logs 12, 3 and 13), fault entry with its codes and values (60_exceptions.md R102, R107, R109, D5, D6, D8,
D24, logs 5 and 12), the wrap of `pc + 4` (10_state.md R28, D19, log 9), `started` (10_state.md R31, D12, log 15) and
`trace_valid` (40_execution_cycle.md R87, D14, log 10). -/
def Obligations.StepIsPseudocode : Prop :=
  ∀ s : State, s.status = .ready → step s = .next (pseudoStep s)

/-- A step of a READY core has exactly one of two outcomes: committed, with at most one register written (x0 never) and
memory untouched; or faulted with one cause of codes 1 to 4 and nothing changed but `status`, the fault record,
`started` and `trace_valid`. Derived from 40_execution_cycle.md R85, R89 and 60_exceptions.md R102, R107, R111 (the
spec's decisions D5, D6, D24, logs 5 and 12). -/
def Obligations.StepCommitsOrFaults : Prop :=
  ∀ s : State, s.status = .ready → ∃ t, step s = .next t ∧
    ((t.status = .ready ∧ (∃ target, Committed s t target) ∧ t.readReg 0#5 = 0#32 ∧
        ∃ rd, ∀ r, r ≠ rd → t.readReg r = s.readReg r) ∨
     (t.status = .faulted ∧ ∃ code tval, Faulted s t code tval ∧ 1 ≤ code.toNat ∧ code.toNat ≤ 4))

/-- Which fault a READY core's step takes, in the fixed order alignment, bounds, decode, with its code and the value it
records; and where none applies, that it takes none. Derived from 60_exceptions.md R102 to R105, R107, R109, R110 and
30_encoding.md R67 to R70; the opcode values 0x33 and 0x6F it spells out are general knowledge of the spec (R64, D1,
log 1), the checks, codes, values and order are the spec's decisions D3 to D8 and D24 (logs 3, 5, 12, 13), and
`started` and `trace_valid` are D12 and D14 (logs 15, 10). -/
def Obligations.StepFaultsByPriority : Prop :=
  ∀ s : State, s.status = .ready → ∃ t, step s = .next t ∧
    if s.params.fetchAlignCheck = true ∧ s.pc.toNat % 4 ≠ 0 then Faulted s t 4#3 s.pc
    else if s.params.memSize ≤ s.pc.toNat + 3 then Faulted s t 3#3 s.pc
    else ∃ w, s.fetchWord s.pc = .ok w ∧
      if w &&& 0x0000007F#32 ≠ 0x00000033#32 ∧ w &&& 0x0000007F#32 ≠ 0x0000006F#32 then Faulted s t 1#3 w
      else if w &&& 0x0000007F#32 = 0x00000033#32 ∧ w &&& 0xFE00707F#32 ≠ 0x00000033#32 then Faulted s t 2#3 w
      else t.status = .ready ∧ t.faultCause = s.faultCause ∧ t.faultPc = s.faultPc ∧ t.faultTval = s.faultTval

/-- A step depends on memory through the four bytes at `pc` alone: with any other memory that agrees on them it does the
same. Derived from 10_state.md R25, 20_memory.md R43, R45 and 40_execution_cycle.md R89. -/
def Obligations.StepIgnoresUnfetchedMemory : Prop :=
  ∀ (s t : State) (m : Memory),
    (∀ j, j < 4 → State.memByte { s with mem := m } (s.pc.toNat + j) = s.memByte (s.pc.toNat + j)) →
    step s = .next t → step { s with mem := m } = .next { t with mem := m }

/-! ### Clock edges, reset, faults that stay -/

/-- One clock edge, in priority order: reset, a step if `run` and READY, a register seed, hold. Derived from
40_execution_cycle.md R87 and 70_reset_and_hazards.md R122, R127 (the spec's decisions D9, D10, D20, logs 6 and 15). -/
def Obligations.ClockEdgePriority : Prop :=
  ∀ (i : Inputs) (s : State),
    clockEdge i s =
      if i.rst = true then .next s.resetCore
      else if i.run = true ∧ s.status = .ready then step s
      else if i.run = false ∧ i.seedWe = true ∧ s.started = false then
        .next ({ s with traceValid := false }.writeReg i.seedIdx i.seedData)
      else .next { s with traceValid := false }

/-- A clock edge with `rst` = 1, whatever the state and the other inputs: every register of the core takes its reset
value, memory and the parameters stay. Derived from 70_reset_and_hazards.md R122 to R124 and 10_state.md R24, R36 (the
spec's decision D11). -/
def Obligations.ResetEdgeRestores : Prop :=
  ∀ (i : Inputs) (s : State), i.rst = true → ∃ t, clockEdge i s = .next t ∧
    (∀ r, t.readReg r = 0#32) ∧ t.pc = 0#32 ∧ t.nextPc = 0#32 ∧ t.status = .ready ∧ t.faultCause = 0#3 ∧
    t.faultPc = 0#32 ∧ t.faultTval = 0#32 ∧ t.started = false ∧ t.traceValid = false ∧ t.mem = s.mem ∧
    t.params = s.params

/-- The reset state meets the invariant. Derived from 10_state.md R36; the parameters it carries are the model's choice
(logs 2 and 3). -/
def Obligations.ResetMeetsInvariant : Prop := State.reset.Inv

/-- The invariant is kept by every step: legal parameters, canonical memory below MEM_SIZE, x0's slot 0, an even `pc`,
`next_pc` equal to `pc` between steps, an empty fault record while READY, and while FAULTED the record of the very
fault that `pc` raises. Derived from 10_state.md R21, R26, R28 to R31 and 60_exceptions.md R107, R109, R113. -/
def Obligations.StepKeepsInvariant : Prop :=
  ∀ s t : State, s.Inv → step s = .next t → t.Inv

/-- The invariant is kept by any sequence of clock edges with any inputs, resets and seeds among them. Derived as
StepKeepsInvariant is, and from 40_execution_cycle.md R87 and 70_reset_and_hazards.md R123, R127. -/
def Obligations.ClockRunKeepsInvariant : Prop :=
  ∀ (ins : List Inputs) (s t : State), s.Inv → clockRun ins s = .next t → t.Inv

/-- Loading memory keeps the invariant. Derived from 20_memory.md R37, R42 and 70_reset_and_hazards.md R126, R130; what
the model refuses is its own choice (log 8). -/
def Obligations.HostWritesKeepInvariant : Prop :=
  (∀ (a : Nat) (b : Byte) (s t : State), s.Inv → hostWriteByte a b s = .next t → t.Inv) ∧
  (∀ (image : List Word) (s t : State), s.Inv → loadImage image s = .next t → t.Inv)

/-- No input sequence makes the machine stop outside the spec's own fault mechanism: every run of clock edges answers a
next state. Derived from 40_execution_cycle.md R87, R89 and 60_exceptions.md R101, R106 (log 5). -/
def Obligations.ClockRunAlwaysAnswers : Prop :=
  ∀ (ins : List Inputs) (s : State), ∃ t, clockRun ins s = .next t

/-- A FAULTED core stays as it is through any clock edges without reset, whatever `run` and the seed port do; only
`trace_valid` becomes 0. The invariant rules out a FAULTED core that has not started, which no run reaches and which
would still take a seed. Derived from 60_exceptions.md R112, R113 and 40_execution_cycle.md R87 (the spec's decision
D5, log 5). -/
def Obligations.FaultedCoreHolds : Prop :=
  ∀ (ins : List Inputs) (s : State), s.Inv → s.status = .faulted → (∀ i ∈ ins, i.rst = false) →
    clockRun ins s = .next (if ins = [] then s else { s with traceValid := false })

/-- While `run` = 0 and no seed applies every piece of state holds, for any number of edges, but that `trace_valid`
becomes 0; after the first step no seed applies. Derived from 70_reset_and_hazards.md R127, R136 and
40_execution_cycle.md R87 (the spec's decisions D9, D12, log 15). -/
def Obligations.HoldsWhileNotRun : Prop :=
  ∀ (ins : List Inputs) (s : State),
    (∀ i ∈ ins, i.rst = false ∧ i.run = false ∧ (i.seedWe = false ∨ s.started = true)) →
    clockRun ins s = .next (if ins = [] then s else { s with traceValid := false })

/-- Without reset, FAULTED is never left, and it and the fault record are written only by a step of a READY core that
faults. Derived from 10_state.md R29, R30 and 60_exceptions.md R108 (the spec's decision D5, log 5). -/
def Obligations.FaultRecordWrittenOnce : Prop :=
  ∀ (i : Inputs) (s t : State), i.rst = false → clockEdge i s = .next t →
    (s.status = .faulted → t.status = .faulted) ∧
    ((t.status = s.status ∧ t.faultCause = s.faultCause ∧ t.faultPc = s.faultPc ∧ t.faultTval = s.faultTval) ∨
     (i.run = true ∧ s.status = .ready ∧ t.status = .faulted ∧ ∃ code tval, Faulted s t code tval))

/-- `started` is set by a step, whether it commits or faults, and by nothing else, and is cleared by reset alone. Derived
from 10_state.md R31 and 40_execution_cycle.md R87 (the spec's decision D12, log 15). -/
def Obligations.StartedSetByStepsOnly : Prop :=
  ∀ (i : Inputs) (s t : State), clockEdge i s = .next t →
    t.started = if i.rst = true then false else if i.run = true ∧ s.status = .ready then true else s.started

/-- A register changes at a clock edge only if reset, or a committed instruction whose `rd` it is, or a host seed of it
says so; x0 never reads other than 0. Derived from 10_state.md R20, R23 and 70_reset_and_hazards.md R127. -/
def Obligations.RegistersChangeOnlyByTheirWriters : Prop :=
  ∀ (i : Inputs) (s t : State) (r : RegIdx), clockEdge i s = .next t → t.readReg r ≠ s.readReg r →
    r ≠ 0#5 ∧
    (i.rst = true ∨
     (i.run = true ∧ s.status = .ready ∧ t.status = .ready ∧
       ∃ w, s.fetchWord s.pc = .ok w ∧ r = w.extractLsb' 7 5) ∨
     (i.run = false ∧ i.seedWe = true ∧ s.started = false ∧ r = i.seedIdx ∧ t.readReg r = i.seedData))

/-- No clock edges, reset among them, change a byte of memory or the parameters. Derived from 20_memory.md R40, R45, R53
and 70_reset_and_hazards.md R124. -/
def Obligations.MemoryConstantThroughRun : Prop :=
  ∀ (ins : List Inputs) (s t : State), clockRun ins s = .next t →
    t.mem = s.mem ∧ t.params = s.params ∧ ∀ a, t.memByte a = s.memByte a

/-- After a step of a READY core, `trace_valid` says whether it committed, and the outputs show the new `pc`, every
register (x0 as 0), the status and the fault record. Derived from 60_exceptions.md R112, R121 and
40_execution_cycle.md R75 (the spec's decision D14, log 10). -/
def Obligations.TraceShowsTheStep : Prop :=
  ∀ s t : State, s.status = .ready → step s = .next t →
    (t.outputs.traceValid = true ↔ t.status = .ready) ∧ t.outputs.tracePc = t.pc ∧ t.outputs.imemAddr = t.pc ∧
    (∀ k : Fin 32, t.outputs.traceRegs[k] = t.readReg (BitVec.ofNat 5 k.val)) ∧
    (t.outputs.faulted = true ↔ t.status = .faulted) ∧
    t.outputs.faultCause = t.faultCause ∧ t.outputs.faultPc = t.faultPc ∧ t.outputs.faultTval = t.faultTval

/-! ### Host: seeding, loading, launch -/

/-- A seed edge before the first step writes one register by the write rule and nothing else but `trace_valid`; after the
first step it is ignored. Derived from 70_reset_and_hazards.md R127 (the spec's decision D12, log 15). -/
def Obligations.SeedOnlyBeforeFirstStep : Prop :=
  ∀ (i : Inputs) (s : State), i.rst = false → i.run = false → i.seedWe = true →
    ∃ t, clockEdge i s = .next t ∧ t = { s with traceValid := false, regs := t.regs } ∧
      ∀ r, t.readReg r =
        if r = 0#5 then 0#32 else if s.started = false ∧ r = i.seedIdx then i.seedData else s.readReg r

/-- The host's write of one byte before the first step changes that byte and nothing else; after it, or outside memory,
the model refuses. Derived from 70_reset_and_hazards.md R126, R130 and 20_memory.md R39, R42; the two refusals are the
model's (93_implementation_defined.md I13, log 8). -/
def Obligations.HostWriteChangesOneByte : Prop :=
  ∀ (a : Nat) (b : Byte) (s : State),
    if s.started = true then hostWriteByte a b s = .refused .hostWriteAfterStart
    else if s.params.memSize ≤ a then hostWriteByte a b s = .refused .hostWriteOutOfMemory
    else ∃ t, hostWriteByte a b s = .next t ∧ t = { s with mem := t.mem } ∧
      ∀ k, t.memByte k = if k = a then b else s.memByte k

/-- 70_reset_and_hazards.md R126: word `k` of an image that fits occupies bytes 4k to 4k + 3, byte 4k + j holding bits
8j + 7 .. 8j of the word; no other byte and no other state changes; and the core's fetch reads each word back. -/
def Obligations.LoadedImageIsFetched : Prop :=
  ∀ (s : State) (image : List Word), s.started = false → s.params.Legal → 4 * image.length ≤ s.params.memSize →
    ∃ t, loadImage image s = .next t ∧ t = { s with mem := t.mem } ∧
      (∀ k, (h : k < image.length) → ∀ j, j < 4 → t.memByte (4 * k + j) = image[k].extractLsb' (8 * j) 8) ∧
      (∀ a, 4 * image.length ≤ a → t.memByte a = s.memByte a) ∧
      (∀ k, (h : k < image.length) → t.fetchWord (BitVec.ofNat 32 (4 * k)) = .ok image[k])

/-- The boot order of the host: from any state at all, reset, load an image that fits, seed registers in order; the
result is a launch state whose registers hold their last seed or 0, whose memory holds the image at 0, and every other
byte what it held. Derived from 70_reset_and_hazards.md R123, R126 to R129. -/
def Obligations.BootReachesLaunchState : Prop :=
  ∀ (s : State) (i : Inputs) (image : List Word) (seeds : List (RegIdx × Word)),
    4 * image.length ≤ s.params.memSize →
    ∃ s1 s2 t, clockEdge (resetEdge i) s = .next s1 ∧ loadImage image s1 = .next s2 ∧
      clockRun (seedEdges seeds) s2 = .next t ∧ t.Launch ∧
      (∀ r, t.readReg r = if r = 0#5 then 0#32 else lastWrite seeds r 0#32) ∧
      (∀ k, (h : k < image.length) → ∀ j, j < 4 → t.memByte (4 * k + j) = image[k].extractLsb' (8 * j) 8) ∧
      (∀ a, 4 * image.length ≤ a → t.memByte a = s.memByte a)
end

