-- ==== Sys2Proof/Laws/Decode.lean ====
section
/-!
SUPPORT. What the decoder can answer, said once.
-/

namespace Sys2Proof

/-- The level-2 table as a condition on the pair. -/
theorem classify_eq (op : BitVec 7) (f3 : BitVec 3) (f7 : BitVec 7) :
    classify op f3 f7 =
      if op = 0x33#7 then (if f3 = 0#3 ∧ f7 = 0#7 then .add else .unimplemented)
      else if op = 0x6F#7 then .jal else .illegal := by
  have hb : ((f3, f7) == (0#3, 0#7)) = decide (f3 = 0#3 ∧ f7 = 0#7) := by
    rw [Bool.eq_iff_iff]; simp
  simp only [classify, Config.opcR, Config.opcJ, rTypeTable, List.lookup, hb]
  by_cases h : f3 = 0#3 ∧ f7 = 0#7 <;> simp [h] <;> rfl

/-- The four answers of the decoder. -/
theorem decode_eq (w : Word) :
    decode w =
      if opcodeOf w = 0x33#7 then
        (if funct3Of w = 0#3 ∧ funct7Of w = 0#7 then .ok (.add (rdOf w) (rs1Of w) (rs2Of w)) else .error .unimplemented)
      else if opcodeOf w = 0x6F#7 then .ok (.jal (rdOf w) (immJOf w)) else .error .illegal := by
  simp only [decode, decoderOutputs, classify_eq]
  split <;> split at * <;> simp_all <;> split at * <;> simp_all

/-- Bit 0 of a decoded immediate is 0. -/
theorem immJOf_even (w : Word) : (immJOf w).getLsbD 0 = false := by
  simp only [immJOf, imm21Of, BitVec.getLsbD_signExtend, BitVec.getLsbD_append]
  rfl

/-- A decoded offset is even. -/
theorem decode_jal_even {w : Word} {rd : RegIdx} {v : Word} (h : decode w = .ok (.jal rd v)) : v.getLsbD 0 = false := by
  rw [decode_eq] at h
  split at h
  · split at h <;> simp at h
  · split at h
    · simp only [Except.ok.injEq, Instr.jal.injEq] at h
      rw [← h.2]; exact immJOf_even w
    · simp at h

/-- A word of four given bytes is never short. -/
theorem decode_ne_truncated (w : Word) : decode w ≠ .error .truncated := by
  rw [decode_eq]; split
  · split <;> simp
  · split <;> simp

end Sys2Proof
end

