-- ==== Sys2Proof/Laws/Memory.lean ====
section
/-!
SUPPORT. The laws of memory: read after write, and that every memory operation keeps the canonical form.
-/

namespace Sys2Proof.Machine

/-- A read after a write gives the byte written there, and what was there everywhere else. -/
theorem Memory.lookup_write (m : Memory) (a k : Nat) (b : Byte) :
    Memory.lookup (Memory.write m a b) k = if k = a then some b else Memory.lookup m k := by
  induction m with
  | nil => simp only [Memory.write, Memory.lookup]
  | cons c rest ih =>
    obtain ⟨n, d⟩ := c
    simp only [Memory.write]
    split
    · simp only [Memory.lookup]
    · split
      · subst n; simp only [Memory.lookup]; split <;> rfl
      · simp only [Memory.lookup, ih]
        by_cases h : k = n
        · subst h; simp_all; omega
        · simp [h]

theorem Memory.risesAbove_write (m : Memory) (n a : Nat) (b : Byte) (hn : n < a)
    (h : Memory.risesAbove n m = true) : Memory.risesAbove n (Memory.write m a b) = true := by
  induction m generalizing n with
  | nil => simp [Memory.write, Memory.risesAbove, hn]
  | cons c rest ih =>
    obtain ⟨k, d⟩ := c
    simp only [Memory.risesAbove, Bool.and_eq_true, decide_eq_true_eq] at h
    simp only [Memory.write]
    split
    · simp [Memory.risesAbove, *]
    · split
      · subst k; simp [Memory.risesAbove, *]
      · simp only [Memory.risesAbove, Bool.and_eq_true, decide_eq_true_eq]
        exact ⟨h.1, ih k (by omega) h.2⟩

/-- A write keeps the canonical form. -/
theorem Memory.write_wf (m : Memory) (a : Nat) (b : Byte) (h : m.wf = true) : (Memory.write m a b).wf = true := by
  cases m with
  | nil => rfl
  | cons c rest =>
    obtain ⟨k, d⟩ := c
    simp only [Memory.wf] at h
    simp only [Memory.write]
    split
    · simp [Memory.wf, Memory.risesAbove, *]
    · split
      · subst k; simpa [Memory.wf] using h
      · exact Memory.risesAbove_write rest k a b (by omega) h

/-- A write below MEM_SIZE keeps every listed address below it. -/
theorem Memory.write_within (m : Memory) (size a : Nat) (b : Byte) (ha : a < size) (h : m.within size = true) :
    (Memory.write m a b).within size = true := by
  induction m with
  | nil => simp [Memory.write, Memory.within, ha]
  | cons c rest ih =>
    obtain ⟨k, d⟩ := c
    simp only [Memory.within, List.all_cons, Bool.and_eq_true, decide_eq_true_eq] at h ih
    simp only [Memory.write]
    split
    · simp [Memory.within, ha, h]
    · split
      · simp [Memory.within, ha, h]
      · simp only [Memory.within, List.all_cons, Bool.and_eq_true, decide_eq_true_eq]
        exact ⟨h.1, ih h.2⟩

theorem Memory.writeBytes_wf (bs : List Byte) (m : Memory) (a : Nat) (h : m.wf = true) :
    (Memory.writeBytes m a bs).wf = true := by
  induction bs generalizing m a with
  | nil => exact h
  | cons b rest ih => exact ih _ _ (Memory.write_wf m a b h)

theorem Memory.writeBytes_within (bs : List Byte) (m : Memory) (size a : Nat) (ha : a + bs.length ≤ size)
    (h : m.within size = true) : (Memory.writeBytes m a bs).within size = true := by
  induction bs generalizing m a with
  | nil => exact h
  | cons b rest ih =>
    simp only [List.length_cons] at ha
    exact ih _ _ (by omega) (Memory.write_within m size a b (by omega) h)

/-- What an address holds after bytes are written from `a` on. -/
theorem Memory.lookup_writeBytes (bs : List Byte) (m : Memory) (a k : Nat) :
    Memory.lookup (Memory.writeBytes m a bs) k = if a ≤ k then (bs[k - a]?).or (Memory.lookup m k) else Memory.lookup m k := by
  induction bs generalizing m a with
  | nil => simp [Memory.writeBytes]
  | cons b rest ih =>
    rw [Memory.writeBytes, ih, Memory.lookup_write]
    by_cases h1 : k = a
    · subst h1; simp
    · by_cases h2 : a ≤ k
      · have h3 : k - a = (k - (a + 1)) + 1 := by omega
        simp [h1, h2, h3, show a + 1 ≤ k by omega]
      · simp [h1, h2, show ¬ a + 1 ≤ k by omega]

/-- Reset memory has the canonical form, for any MEM_SIZE. -/
theorem State.reset_mem_wf : State.reset.mem.wf = true := rfl

theorem State.reset_mem_within (size : Nat) : State.reset.mem.within size = true := rfl

/-- Placing a word at `pc` keeps the canonical form. -/
theorem State.placeWordAtPc_wf (s : State) (w : Word) (h : s.mem.wf = true) : (s.placeWordAtPc w).mem.wf = true :=
  Memory.writeBytes_wf _ _ _ h

end Sys2Proof.Machine
end

