-- ==== Sys2Proof/Laws/State.lean ====
section
/-!
SUPPORT. One lemma for each field of each update of State, so that no later proof unfolds a record update.
-/

namespace Sys2Proof.Machine

variable (s : State)

/-! ### writeReg -/

@[simp] theorem State.writeReg_params (i : RegIdx) (v : Word) : (s.writeReg i v).params = s.params := rfl
@[simp] theorem State.writeReg_pc (i : RegIdx) (v : Word) : (s.writeReg i v).pc = s.pc := rfl
@[simp] theorem State.writeReg_nextPc (i : RegIdx) (v : Word) : (s.writeReg i v).nextPc = s.nextPc := rfl
@[simp] theorem State.writeReg_status (i : RegIdx) (v : Word) : (s.writeReg i v).status = s.status := rfl
@[simp] theorem State.writeReg_faultCause (i : RegIdx) (v : Word) : (s.writeReg i v).faultCause = s.faultCause := rfl
@[simp] theorem State.writeReg_faultPc (i : RegIdx) (v : Word) : (s.writeReg i v).faultPc = s.faultPc := rfl
@[simp] theorem State.writeReg_faultTval (i : RegIdx) (v : Word) : (s.writeReg i v).faultTval = s.faultTval := rfl
@[simp] theorem State.writeReg_started (i : RegIdx) (v : Word) : (s.writeReg i v).started = s.started := rfl
@[simp] theorem State.writeReg_traceValid (i : RegIdx) (v : Word) : (s.writeReg i v).traceValid = s.traceValid := rfl
@[simp] theorem State.writeReg_mem (i : RegIdx) (v : Word) : (s.writeReg i v).mem = s.mem := rfl

/-! ### writeNextPc -/

@[simp] theorem State.writeNextPc_params (v : Word) : (s.writeNextPc v).params = s.params := rfl
@[simp] theorem State.writeNextPc_regs (v : Word) : (s.writeNextPc v).regs = s.regs := rfl
@[simp] theorem State.writeNextPc_pc (v : Word) : (s.writeNextPc v).pc = s.pc := rfl
@[simp] theorem State.writeNextPc_nextPc (v : Word) : (s.writeNextPc v).nextPc = v := rfl
@[simp] theorem State.writeNextPc_status (v : Word) : (s.writeNextPc v).status = s.status := rfl
@[simp] theorem State.writeNextPc_faultCause (v : Word) : (s.writeNextPc v).faultCause = s.faultCause := rfl
@[simp] theorem State.writeNextPc_faultPc (v : Word) : (s.writeNextPc v).faultPc = s.faultPc := rfl
@[simp] theorem State.writeNextPc_faultTval (v : Word) : (s.writeNextPc v).faultTval = s.faultTval := rfl
@[simp] theorem State.writeNextPc_started (v : Word) : (s.writeNextPc v).started = s.started := rfl
@[simp] theorem State.writeNextPc_traceValid (v : Word) : (s.writeNextPc v).traceValid = s.traceValid := rfl
@[simp] theorem State.writeNextPc_mem (v : Word) : (s.writeNextPc v).mem = s.mem := rfl

/-! ### stage -/

@[simp] theorem State.stage_params : s.stage.params = s.params := rfl
@[simp] theorem State.stage_regs : s.stage.regs = s.regs := rfl
@[simp] theorem State.stage_pc : s.stage.pc = s.pc := rfl
@[simp] theorem State.stage_nextPc : s.stage.nextPc = s.pc + 4#32 := rfl
@[simp] theorem State.stage_status : s.stage.status = s.status := rfl
@[simp] theorem State.stage_faultCause : s.stage.faultCause = s.faultCause := rfl
@[simp] theorem State.stage_faultPc : s.stage.faultPc = s.faultPc := rfl
@[simp] theorem State.stage_faultTval : s.stage.faultTval = s.faultTval := rfl
@[simp] theorem State.stage_started : s.stage.started = true := rfl
@[simp] theorem State.stage_traceValid : s.stage.traceValid = s.traceValid := rfl
@[simp] theorem State.stage_mem : s.stage.mem = s.mem := rfl

/-! ### commit -/

@[simp] theorem State.commit_params : s.commit.params = s.params := rfl
@[simp] theorem State.commit_regs : s.commit.regs = s.regs := rfl
@[simp] theorem State.commit_pc : s.commit.pc = s.nextPc := rfl
@[simp] theorem State.commit_nextPc : s.commit.nextPc = s.nextPc := rfl
@[simp] theorem State.commit_status : s.commit.status = s.status := rfl
@[simp] theorem State.commit_faultCause : s.commit.faultCause = s.faultCause := rfl
@[simp] theorem State.commit_faultPc : s.commit.faultPc = s.faultPc := rfl
@[simp] theorem State.commit_faultTval : s.commit.faultTval = s.faultTval := rfl
@[simp] theorem State.commit_started : s.commit.started = s.started := rfl
@[simp] theorem State.commit_traceValid : s.commit.traceValid = true := rfl
@[simp] theorem State.commit_mem : s.commit.mem = s.mem := rfl

/-! ### hold -/

@[simp] theorem State.hold_params : s.hold.params = s.params := rfl
@[simp] theorem State.hold_regs : s.hold.regs = s.regs := rfl
@[simp] theorem State.hold_pc : s.hold.pc = s.pc := rfl
@[simp] theorem State.hold_nextPc : s.hold.nextPc = s.nextPc := rfl
@[simp] theorem State.hold_status : s.hold.status = s.status := rfl
@[simp] theorem State.hold_faultCause : s.hold.faultCause = s.faultCause := rfl
@[simp] theorem State.hold_faultPc : s.hold.faultPc = s.faultPc := rfl
@[simp] theorem State.hold_faultTval : s.hold.faultTval = s.faultTval := rfl
@[simp] theorem State.hold_started : s.hold.started = s.started := rfl
@[simp] theorem State.hold_traceValid : s.hold.traceValid = false := rfl
@[simp] theorem State.hold_mem : s.hold.mem = s.mem := rfl

/-! ### takeFault -/

@[simp] theorem State.takeFault_params (r : Raised) : (s.takeFault r).params = s.params := rfl
@[simp] theorem State.takeFault_regs (r : Raised) : (s.takeFault r).regs = s.regs := rfl
@[simp] theorem State.takeFault_pc (r : Raised) : (s.takeFault r).pc = s.pc := rfl
@[simp] theorem State.takeFault_nextPc (r : Raised) : (s.takeFault r).nextPc = s.nextPc := rfl
@[simp] theorem State.takeFault_status (r : Raised) : (s.takeFault r).status = .faulted := rfl
@[simp] theorem State.takeFault_faultCause (r : Raised) : (s.takeFault r).faultCause = r.cause.code := rfl
@[simp] theorem State.takeFault_faultPc (r : Raised) : (s.takeFault r).faultPc = s.pc := rfl
@[simp] theorem State.takeFault_faultTval (r : Raised) : (s.takeFault r).faultTval = r.tval := rfl
@[simp] theorem State.takeFault_started (r : Raised) : (s.takeFault r).started = true := rfl
@[simp] theorem State.takeFault_traceValid (r : Raised) : (s.takeFault r).traceValid = false := rfl
@[simp] theorem State.takeFault_mem (r : Raised) : (s.takeFault r).mem = s.mem := rfl

/-! ### resetCore -/

@[simp] theorem State.resetCore_params : s.resetCore.params = s.params := rfl
@[simp] theorem State.resetCore_regs : s.resetCore.regs = Vector.replicate 32 0#32 := rfl
@[simp] theorem State.resetCore_pc : s.resetCore.pc = 0#32 := rfl
@[simp] theorem State.resetCore_nextPc : s.resetCore.nextPc = 0#32 := rfl
@[simp] theorem State.resetCore_status : s.resetCore.status = .ready := rfl
@[simp] theorem State.resetCore_faultCause : s.resetCore.faultCause = 0#3 := rfl
@[simp] theorem State.resetCore_faultPc : s.resetCore.faultPc = 0#32 := rfl
@[simp] theorem State.resetCore_faultTval : s.resetCore.faultTval = 0#32 := rfl
@[simp] theorem State.resetCore_started : s.resetCore.started = false := rfl
@[simp] theorem State.resetCore_traceValid : s.resetCore.traceValid = false := rfl
@[simp] theorem State.resetCore_mem : s.resetCore.mem = s.mem := rfl

/-! ### Reads after updates that do not touch what they read -/

@[simp] theorem State.writePort_true (i : RegIdx) (v : Word) : s.writePort true i v = s.writeReg i v := rfl
@[simp] theorem State.writePort_false (i : RegIdx) (v : Word) : s.writePort false i v = s := rfl
@[simp] theorem State.pcPlus4_eq : s.pcPlus4 = s.pc + 4#32 := rfl
@[simp] theorem State.jalTarget_eq (v : Word) : s.jalTarget v = s.pc + v := rfl

@[simp] theorem State.writeReg_memByte (i : RegIdx) (v : Word) (a : Nat) : (s.writeReg i v).memByte a = s.memByte a := rfl
@[simp] theorem State.writeNextPc_memByte (v : Word) (a : Nat) : (s.writeNextPc v).memByte a = s.memByte a := rfl
@[simp] theorem State.writeNextPc_readReg (v : Word) (k : RegIdx) : (s.writeNextPc v).readReg k = s.readReg k := rfl
@[simp] theorem State.stage_memByte (a : Nat) : s.stage.memByte a = s.memByte a := rfl
@[simp] theorem State.stage_readReg (k : RegIdx) : s.stage.readReg k = s.readReg k := rfl
@[simp] theorem State.commit_memByte (a : Nat) : s.commit.memByte a = s.memByte a := rfl
@[simp] theorem State.commit_readReg (k : RegIdx) : s.commit.readReg k = s.readReg k := rfl
@[simp] theorem State.hold_memByte (a : Nat) : s.hold.memByte a = s.memByte a := rfl
@[simp] theorem State.hold_readReg (k : RegIdx) : s.hold.readReg k = s.readReg k := rfl
@[simp] theorem State.takeFault_memByte (r : Raised) (a : Nat) : (s.takeFault r).memByte a = s.memByte a := rfl
@[simp] theorem State.takeFault_readReg (r : Raised) (k : RegIdx) : (s.takeFault r).readReg k = s.readReg k := rfl
@[simp] theorem State.resetCore_memByte (a : Nat) : s.resetCore.memByte a = s.memByte a := rfl

end Sys2Proof.Machine
end

