-- ==== Sys2Proof/Laws/Ops.lean ====
section
/-!
SUPPORT. One lemma for each shared operation that says what it can do.
-/

namespace Sys2Proof.Machine

variable (s : State)

@[simp] theorem State.readReg_zero : s.readReg 0#5 = 0#32 := rfl

/-- The register file: x0 reads 0, a write is read back, every other register stays. -/
theorem State.readReg_writeReg (i j : RegIdx) (v : Word) :
    (s.writeReg i v).readReg j = if j = 0#5 then 0#32 else if j = i then v else s.readReg j := by
  unfold State.readReg State.writeReg
  by_cases hj : j = 0#5
  · simp [hj]
  · by_cases hij : j = i
    · simp [hj, ← hij]
    · by_cases hi : i = 0#5
      · simp [hi, hj]
      · have h : i.toNat ≠ j.toNat := fun h => hij (BitVec.eq_of_toNat_eq h.symm)
        simp [hi, hj, hij, Vector.getElem_set_ne _ _ h]

/-- A write to x0 changes nothing. -/
@[simp] theorem State.writeReg_zero (v : Word) : s.writeReg 0#5 v = s := rfl

/-- The slot of x0 is never written. -/
theorem State.writeReg_slotZero (i : RegIdx) (v : Word) : (s.writeReg i v).regs[0] = s.regs[0] := by
  unfold State.writeReg
  by_cases hi : i = 0#5
  · simp [hi]
  · have h : i.toNat ≠ 0 := fun h => hi (BitVec.eq_of_toNat_eq h)
    simp [hi, Vector.getElem_set_ne _ _ h]

/-- The three answers of a fetch, in the order of the checks. -/
theorem State.fetchWord_cases (a : Word) :
    (misalignedFetch s.params a = true ∧ s.fetchWord a = .error { cause := .fetchMisaligned, tval := a }) ∨
    (misalignedFetch s.params a = false ∧ outOfBoundsFetch s.params a = true ∧
      s.fetchWord a = .error { cause := .fetchOutOfBounds, tval := a }) ∨
    (misalignedFetch s.params a = false ∧ outOfBoundsFetch s.params a = false ∧ s.fetchWord a = .ok (s.wordAt a)) := by
  unfold State.fetchWord
  cases misalignedFetch s.params a <;> cases outOfBoundsFetch s.params a <;> simp

/-- A fetched instruction comes from a fetched word. -/
theorem State.fetchInstr_ok {i : Instr} (h : s.fetchInstr = .ok i) :
    ∃ w, s.fetchWord s.pc = .ok w ∧ decode w = .ok i := by
  unfold State.fetchInstr at h
  split at h
  · simp at h
  · next w hw =>
    split at h
    · simp at h
    · next j hj => exact ⟨w, hw, by rw [hj]; simpa using h⟩

/-- The fetch reads `pc`, the parameters and memory, and nothing else. -/
theorem State.fetchInstr_congr {s t : State} (hp : t.params = s.params) (hm : t.mem = s.mem) (hpc : t.pc = s.pc) :
    t.fetchInstr = s.fetchInstr := by
  unfold State.fetchInstr State.fetchWord State.wordAt State.memByte
  rw [hp, hm, hpc]

/-- Each handler answers a next state; this is it. -/
theorem exec_add (rd rs1 rs2 : RegIdx) :
    exec (.add rd rs1 rs2) s = .next (s.writeReg rd (aluAdd (s.readReg rs1) (s.readReg rs2))) := rfl

theorem exec_jal (rd : RegIdx) (immJ : Word) :
    exec (.jal rd immJ) s = .next ((s.writeReg rd s.nextPc).writeNextPc (s.pc + immJ)) := rfl

/-- Handler contract (40_execution_cycle.md R85): one register write and `next_pc`, nothing else. -/
theorem exec_next (i : Instr) : ∃ rd v n, exec i s = .next ((s.writeReg rd v).writeNextPc n) := by
  cases i with
  | add rd rs1 rs2 => exact ⟨rd, _, s.nextPc, exec_add s rd rs1 rs2⟩
  | jal rd immJ => exact ⟨rd, _, _, exec_jal s rd immJ⟩

end Sys2Proof.Machine
end

