-- ==== Sys2Proof/Laws/PerInstr.lean ====
section
/-!
SUPPORT. The per-instruction family EncodedWord: the word of an instruction has the fixed bits that spec/opcode_table.json
gives its row (30_encoding.md R67, R68). One lemma for each constructor of Instr.
-/

namespace Sys2Proof.Laws.EncodedWord

/-- The row's mask and match in spec/opcode_table.json. -/
def row : Instr → Word × Word
  | .add _ _ _ => (0xFE00707F, 0x00000033)
  | .jal _ _ => (0x0000007F, 0x0000006F)

/-- The encoded word matches its row. -/
def Statement (i : Instr) : Prop := encode i &&& (row i).1 = (row i).2

theorem add (rd rs1 rs2 : RegIdx) : Statement (.add rd rs1 rs2) := by
  simp only [Statement, encode, packR, row, Config.opcR]
  ext k hk
  simp only [BitVec.getElem_and, BitVec.getElem_append]
  interval_cases k <;> simp

theorem jal (rd : RegIdx) (immJ : Word) : Statement (.jal rd immJ) := by
  simp only [Statement, encode, packJ, row, Config.opcJ]
  ext k hk
  simp only [BitVec.getElem_and, BitVec.getElem_append]
  interval_cases k <;> simp

end Sys2Proof.Laws.EncodedWord
end

