-- ==== Sys2Proof/Laws/Step.lean ====
section
/-!
SUPPORT. What a step and a clock edge can do, said once.
-/

namespace Sys2Proof.Machine

variable (s : State)

theorem step_faulted (h : s.status = .faulted) : step s = .next s.hold := by simp [step, h]

theorem step_raises (h : s.status = .ready) {r : Raised} (hf : s.fetchInstr = .error r) :
    step s = .next (s.takeFault r) := by simp [step, performStep, h, hf]

theorem step_runs (h : s.status = .ready) {i : Instr} (hf : s.fetchInstr = .ok i) :
    step s = commitOutcome (exec i s.stage) := by simp [step, performStep, h, hf]

/-- The state a committed ADD leaves. -/
def addNext (rd rs1 rs2 : RegIdx) : State :=
  (s.stage.writeReg rd (aluAdd (s.readReg rs1) (s.readReg rs2))).commit

/-- The state a committed JAL leaves. -/
def jalNext (rd : RegIdx) (immJ : Word) : State :=
  ((s.stage.writeReg rd (s.pc + 4#32)).writeNextPc (s.pc + immJ)).commit

/-- Everything a step can do: hold while FAULTED, take the one fault its fetch or decode raises, or commit an ADD or a
JAL. -/
theorem step_cases :
    (s.status = .faulted ∧ step s = .next s.hold) ∨
    (s.status = .ready ∧ ∃ r, s.fetchInstr = .error r ∧ step s = .next (s.takeFault r)) ∨
    (s.status = .ready ∧ ∃ rd rs1 rs2, s.fetchInstr = .ok (.add rd rs1 rs2) ∧ step s = .next (addNext s rd rs1 rs2)) ∨
    (s.status = .ready ∧ ∃ rd immJ, s.fetchInstr = .ok (.jal rd immJ) ∧ step s = .next (jalNext s rd immJ)) := by
  cases hs : s.status with
  | faulted => exact .inl ⟨rfl, step_faulted s hs⟩
  | ready =>
    cases hf : s.fetchInstr with
    | error r => exact .inr (.inl ⟨rfl, r, rfl, step_raises s hs hf⟩)
    | ok i =>
      cases i with
      | add rd rs1 rs2 => exact .inr (.inr (.inl ⟨rfl, rd, rs1, rs2, rfl, by rw [step_runs s hs hf]; rfl⟩))
      | jal rd immJ => exact .inr (.inr (.inr ⟨rfl, rd, immJ, rfl, by rw [step_runs s hs hf]; rfl⟩))

/-- Everything a clock edge can do. -/
theorem clockEdge_cases (i : Inputs) :
    (i.rst = true ∧ clockEdge i s = .next s.resetCore) ∨
    (i.rst = false ∧ i.run = true ∧ s.status = .ready ∧ clockEdge i s = step s) ∨
    (i.rst = false ∧ i.run = false ∧ i.seedWe = true ∧ s.started = false ∧
      clockEdge i s = .next (s.hold.writeReg i.seedIdx i.seedData)) ∨
    (i.rst = false ∧ (i.run = true → s.status = .faulted) ∧ clockEdge i s = .next s.hold) := by
  unfold clockEdge seedApplies
  cases i.rst <;> cases i.run <;> cases i.seedWe <;> cases s.status <;> cases s.started <;> simp

end Sys2Proof.Machine
end

