-- ==== Sys2Proof/Tests/Slice0.lean ====
section
/-!
SUPPORT. Tests: ill-formed terms refused, words written out from the spec's encodings decoded, one step of each kind, and a
witness for the hypotheses of each statement. Expected values are those of spec/95_test_vectors.md (S<n>, section numbers)
or hand calculation from the rules named.
-/

namespace Sys2Proof.Tests

open Sys2Proof Sys2Proof.Machine

/-! ### Helpers -/

/-- Reset, with a word at address 0 where the first step fetches. -/
def sample (w : Nat) : State := State.reset.withFetchWord 32 w

/-- A READY core at `pc` with a word there. -/
def sampleAt (p : Params) (pc : Word) (w : Nat) : State :=
  { State.reset with params := p, pc := pc, nextPc := pc, started := true }.withFetchWord 32 w

/-- Does an outcome answer a next state with this property? -/
def answers (o : Host.Outcome State Fault Refusal) (p : State → Bool) : Bool :=
  match o with
  | .next t => p t
  | .fault _ => false
  | .refused _ => false

/-- Parameters of 95_test_vectors.md 2.4: the whole 32-bit space. -/
def fullMemory : Params := { memSize := 2 ^ 32, fetchAlignCheck := true }

/-- The reference behaviour's parameters (00_scope.md R10). -/
def unchecked : Params := { memSize := 0x1000, fetchAlignCheck := false }

def runEdge : Inputs := { rst := false, run := true, seedWe := false, seedIdx := 0, seedData := 0 }
def idleEdge : Inputs := { rst := false, run := false, seedWe := false, seedIdx := 0, seedData := 0 }
def seedEdge (r : RegIdx) (v : Word) : Inputs := { rst := false, run := false, seedWe := true, seedIdx := r, seedData := v }

/-- A FAULTED core: an illegal word at 0 has been run. -/
def faultedSample : State := (sample 0x00000013).takeFault { cause := .illegalInstruction, tval := 0x13 }

/-! ### WellFormed refuses an ill-formed term for each check -/

theorem test_wf_odd_offset_refused : (Instr.jal 1 3).wellFormed = false := by decide
theorem test_wf_offset_above_range_refused : (Instr.jal 1 0x00100000).wellFormed = false := by decide
theorem test_wf_offset_below_range_refused : (Instr.jal 1 0xFFEFFFFE).wellFormed = false := by decide
theorem test_wf_largest_and_smallest_accepted :
    (Instr.jal 1 0x000FFFFE).wellFormed = true ∧ (Instr.jal 1 0xFFF00000).wellFormed = true := by decide

/-! ### Decode (30_encoding.md R59, R60; 95_test_vectors.md 2.1, 2.2) -/

/-- ADD, bit by bit: funct7, rs2 = 2, rs1 = 1, funct3, rd = 3, opcode. -/
theorem test_decode_add : decode 0b0000000_00010_00001_000_00011_0110011#32 = .ok (.add 3 1 2) := by decide
/-- JAL, bit by bit, offset 74564 = 0x12344: imm[20], imm[10:1], imm[11], imm[19:12], rd = 0, opcode. -/
theorem test_decode_jal : decode 0b0_0110100010_0_00010010_00000_1101111#32 = .ok (.jal 0 0x00012344) := by decide
/-- S8: the sign bit fills bits 31 to 20. -/
theorem test_decode_jal_negative : decode 0xFFDFF0EF#32 = .ok (.jal 1 0xFFFFFFFC) := by decide
theorem test_decode_sub_unimplemented : decode 0x402081B3#32 = .error .unimplemented := by decide
theorem test_decode_compressed_illegal : decode 0x00000001#32 = .error .illegal := by decide
/-- S3: the word's bytes in memory order are B3 81 20 00. -/
theorem test_decode_bytes_little_endian : decodeBytes [0xB3, 0x81, 0x20, 0x00, 0x6F] = .ok (.add 3 1 2, [0x6F]) := by decide
theorem test_decode_short_bytes_refused : decodeBytes [0xB3, 0x81, 0x20] = .error .truncated := by decide
theorem test_encode_jal_minus_2048 : encode (.jal 0 0xFFFFF800) = 0x801FF06F#32 := by decide
theorem test_table_word_add : decodeTableWord 32 0x00000033 = some (.add 0 0 0) := by decide
theorem test_table_word_jal : decodeTableWord 32 0x0000006F = some (.jal 0 0) := by decide

/-! ### Assembler text (30_encoding.md R73, R74) -/

theorem test_asm_jump_back : (Instr.pseudoJ 0xFFFFFFF4).toAsm = "jal x0, -12" := by decide
theorem test_abi_name : regOfName "ra" = some 1 ∧ regOfName "x31" = some 31 ∧ regOfName "x32" = none := by decide

/-! ### Steps -/

/-- S1: add wraps to 0 and pc is 4. -/
theorem test_add_wraps :
    answers (step (((sample 0x002081B3).writeReg 1 0xFFFFFFFF).writeReg 2 1)) (fun t =>
      t.readReg 3 == 0 && t.pc == 4 && t.status == .ready) = true := by decide
/-- 2.3: `add x1, x1, x1` reads its source before it writes. -/
theorem test_add_source_is_destination :
    answers (step ((sample 0x001080B3).writeReg 1 0x40000001)) (fun t => t.readReg 1 == 0x80000002) = true := by decide
/-- S2: jal at 0x100 by −4 links 0x104 and goes to 0xFC. -/
theorem test_jal_links_and_jumps :
    answers (step (sampleAt paramsAtReset 0x100 0xFFDFF0EF)) (fun t => t.readReg 1 == 0x104 && t.pc == 0xFC) = true := by
  decide
/-- 2.4: at 0xFFFFFFFC with all of memory the link wraps to 0. -/
theorem test_jal_link_wraps :
    answers (step (sampleAt fullMemory 0xFFFFFFFC 0x000000EF)) (fun t => t.readReg 1 == 0 && t.pc == 0xFFFFFFFC) = true := by
  decide
/-- S6: an unrecognized opcode faults with the word recorded, and `pc` and `next_pc` stay. -/
theorem test_illegal_word_faults :
    answers (step (sample 0x00000013)) (fun t =>
      t.status == .faulted && t.faultCause == 1 && t.faultPc == 0 && t.faultTval == 0x13 && t.pc == 0 && t.nextPc == 0 &&
        t.started && !t.traceValid) = true := by decide
/-- P6: SUB faults as unimplemented. -/
theorem test_sub_faults :
    answers (step (sample 0x402081B3)) (fun t => t.faultCause == 2 && t.faultTval == 0x402081B3) = true := by decide
/-- P4: a fetch at 6 faults as misaligned. -/
theorem test_misaligned_fetch_faults :
    answers (step (sampleAt paramsAtReset 6 0x002081B3)) (fun t => t.faultCause == 4 && t.faultTval == 6) = true := by decide
/-- P4 without the check: bytes 20 00 33 82 at 6 make the word 0x82330020, which is illegal. -/
theorem test_unchecked_fetch_reads_any_address :
    answers (step (sampleAt unchecked 6 0x82330020)) (fun t => t.faultCause == 1 && t.faultTval == 0x82330020) = true := by
  decide
/-- P7: with MEM_SIZE = 8, a fetch at 8 is out of bounds and one at 4 is not. -/
theorem test_fetch_past_end_faults :
    answers (step (sampleAt { memSize := 8, fetchAlignCheck := true } 8 0)) (fun t => t.faultCause == 3 && t.faultTval == 8) =
      true ∧
    answers (step (sampleAt { memSize := 8, fetchAlignCheck := true } 4 0x001080B3)) (fun t => t.status == .ready) = true := by
  decide
/-- 2.7: a seed of x0 has no effect; a seed after the first step is ignored. -/
theorem test_seed_x0_and_late_seed :
    answers (clockEdge (seedEdge 0 0xDEADBEEF) State.reset) (fun t => t.readReg 0 == 0 && t.regs[0] == 0) = true ∧
    answers (clockEdge (seedEdge 2 5) (sampleAt paramsAtReset 0 0x33)) (fun t => t.readReg 2 == 0) = true := by decide
/-- 2.7: run and seed at one edge: the step happens and the seed does not. -/
theorem test_run_beats_seed :
    answers (clockEdge { seedEdge 2 5 with run := true } (sample 0x00000033)) (fun t => t.readReg 2 == 0 && t.pc == 4) =
      true := by decide
/-- Memory keeps its addresses rising and one entry for each. -/
theorem test_memory_write_sorts : Memory.write [(1, 7), (5, 9)] 3 4 = [(1, 7), (3, 4), (5, 9)] := by decide

/-! ### Witnesses: hypotheses of the statements can be met, each clause at a boundary -/

theorem sample_inv (w : Nat) : (sample w).Inv where
  params := ⟨by show 4 ≤ 0x1000; decide, by show 0x1000 ≤ 2 ^ 32; decide⟩
  memWf := State.placeWordAtPc_wf _ _ rfl
  memWithin := Memory.writeBytes_within _ _ _ _
    (by show 0 + (List.take _ (wordBytes _)).length ≤ 0x1000; simp [wordBytes]) rfl
  slotZero := by show State.reset.regs[0] = 0; decide
  pcEven := by show (0#32).getLsbD 0 = false; decide
  nextPc := rfl
  ready := fun _ => ⟨rfl, rfl, rfl⟩
  faulted := fun h => by cases h
  notStarted := fun _ => rfl
  trace := fun h => by cases h

theorem witness_EncodingInvertible :
    immEven 0xFFF00000 = true ∧ immInRange 0xFFF00000 = true ∧ immEven 0x000FFFFE = true ∧ immInRange 0x000FFFFE = true ∧
    (Instr.add 31 0 31).wellFormed = true ∧ (Instr.jal 0 0xFFF00000).wellFormed = true := by decide
theorem witness_DecodedWordIsItsEncoding :
    decode 0xFFDFF0EF#32 = .ok (.jal 1 0xFFFFFFFC) ∧ decode 0x01FF8FB3#32 = .ok (.add 31 31 31) := by decide
theorem witness_JImmediateBitLayout :
    opcodeOf 0x7FFFF0EF#32 = Config.opcJ ∧ (immJOf 0x800000EF#32).getLsbD 31 = true ∧
    (immJOf 0x7FFFF0EF#32).getLsbD 19 = true ∧ (immJOf 0x7FFFF0EF#32).getLsbD 20 = false ∧
    (immJOf 0x0010006F#32).getLsbD 11 = true ∧ (immJOf 0x7FE0006F#32).getLsbD 10 = true := by decide
theorem witness_JImmediateRange : (-1048576 : Int) % 2 = 0 ∧ (1048574 : Int) % 2 = 0 := by decide
theorem witness_RegisterWriteChangesOneSlot : (31#5 : RegIdx) ≠ 0#5 ∧ (0#5 : RegIdx) ≠ 31#5 := by decide

/-- The two clauses: an ADD word, and an R-type word that is not ADD. -/
theorem witness_AddStepCommits :
    (sample 0x002081B3).status = .ready ∧ (sample 0x002081B3).fetchWord (sample 0x002081B3).pc = .ok 0x002081B3#32 ∧
    0x002081B3#32 &&& 0xFE00707F#32 = 0x00000033#32 ∧
    (sample 0x402081B3).status = .ready ∧ (sample 0x402081B3).fetchWord (sample 0x402081B3).pc = .ok 0x402081B3#32 ∧
    0x402081B3#32 &&& 0x0000007F#32 = 0x00000033#32 ∧ 0x402081B3#32 &&& 0xFE00707F#32 ≠ 0x00000033#32 := by decide
/-- JAL by 2 makes a misaligned pc, and by −4 from 0 one outside memory. -/
theorem witness_JalStepCommits :
    (sample 0x002002EF).status = .ready ∧ (sample 0x002002EF).fetchWord 0 = .ok 0x002002EF#32 ∧
    0x002002EF#32 &&& 0x0000007F#32 = 0x0000006F#32 ∧ (sample 0x002002EF).params.fetchAlignCheck = true ∧
    answers (step (sample 0x002002EF)) (fun t => t.pc.toNat % 4 == 2) = true ∧
    answers (step (sample 0xFFDFF0EF)) (fun t => t.pc.toNat % 4 == 0 && decide (0x1000 ≤ t.pc.toNat + 3)) = true := by decide
theorem witness_SelfJumpLoopsForever :
    (sample 0x6F).status = .ready ∧ (sample 0x6F).fetchWord (sample 0x6F).pc = .ok 0x0000006F#32 ∧ [runEdge] ≠ [] ∧
    ∀ i ∈ [runEdge], i.rst = false ∧ i.run = true := by decide
theorem witness_JalIgnoresRegisters :
    (sample 0x6F).status = .ready ∧ (sample 0x6F).fetchWord (sample 0x6F).pc = .ok 0x0000006F#32 ∧
    0x0000006F#32 &&& 0x0000007F#32 = 0x0000006F#32 ∧ ∃ t, step (sample 0x6F) = .next t :=
  ⟨by decide, by decide, by decide, _, rfl⟩
/-- The other register contents differ in x9, which `add x3, x1, x2` does not read. -/
theorem witness_AddReadsOnlyItsSources :
    (sample 0x002081B3).status = .ready ∧ (sample 0x002081B3).fetchWord (sample 0x002081B3).pc = .ok 0x002081B3#32 ∧
    0x002081B3#32 &&& 0xFE00707F#32 = 0x00000033#32 ∧
    ((sample 0x002081B3).writeReg 9 7).readReg (0x002081B3#32 |>.extractLsb' 15 5) = (sample 0x002081B3).readReg 1 ∧
    ((sample 0x002081B3).writeReg 9 7).readReg (0x002081B3#32 |>.extractLsb' 20 5) = (sample 0x002081B3).readReg 2 ∧
    ∃ t, step (sample 0x002081B3) = .next t :=
  ⟨by decide, by decide, by decide, by decide, by decide, _, rfl⟩

/-- The cases of a fetch where they meet: misaligned at 0xFFD, the last word at 0xFFC, out of bounds at 0x1000; and
without the check out of bounds at 0xFFD and, with all of memory, at 0xFFFFFFFD. -/
theorem witness_FetchWordByCases :
    State.reset.fetchWord 0xFFD = .error { cause := .fetchMisaligned, tval := 0xFFD } ∧
    (sampleAt paramsAtReset 0xFFC 0x33).fetchWord 0xFFC = .ok 0x33 ∧
    State.reset.fetchWord 0x1000 = .error { cause := .fetchOutOfBounds, tval := 0x1000 } ∧
    State.fetchWord { State.reset with params := unchecked } 0xFFD = .error { cause := .fetchOutOfBounds, tval := 0xFFD } ∧
    State.fetchWord { State.reset with params := { fullMemory with fetchAlignCheck := false } } 0xFFFFFFFD =
      .error { cause := .fetchOutOfBounds, tval := 0xFFFFFFFD } := by decide
theorem witness_FetchUnitPassesMemoryWord :
    (sample 0x33).fetchUnit.fetchFault = none ∧
    (sampleAt paramsAtReset 2 0x33).fetchUnit.fetchFault = some .fetchMisaligned ∧
    (sampleAt paramsAtReset 0x1000 0x33).fetchUnit.fetchFault = some .fetchOutOfBounds := by decide
theorem witness_StepRunsDecodedInstruction :
    (sample 0x002081B3).status = .ready ∧ (sample 0x002081B3).fetchWord (sample 0x002081B3).pc = .ok 0x002081B3#32 ∧
    decode 0x002081B3#32 = .ok (.add 3 1 2) ∧ (Instr.add 3 1 2).wellFormed = true := by decide
/-- READY is met at reset: StepIsPseudocode, StepCommitsOrFaults, StepFaultsByPriority. -/
theorem witness_ready : State.reset.status = .ready := rfl
/-- The clauses of StepFaultsByPriority, misaligned and out of bounds together first (95_test_vectors.md 2.5). -/
theorem witness_StepFaultsByPriority :
    answers (step (sampleAt paramsAtReset 0x1002 0)) (fun t => t.faultCause == 4) = true ∧
    answers (step (sampleAt paramsAtReset 0x1000 0)) (fun t => t.faultCause == 3) = true ∧
    answers (step (sample 0x00000073)) (fun t => t.faultCause == 1) = true ∧
    answers (step (sample 0x022081B3)) (fun t => t.faultCause == 2) = true ∧
    answers (step (sample 0x0000006F)) (fun t => t.status == .ready && t.faultCause == 0) = true := by decide
/-- Memory that differs above the fetched word. -/
theorem witness_StepIgnoresUnfetchedMemory :
    (∀ j, j < 4 → State.memByte { sample 0x33 with mem := (sample 0x33).mem.write 4 9 } ((sample 0x33).pc.toNat + j) =
      (sample 0x33).memByte ((sample 0x33).pc.toNat + j)) ∧
    (sample 0x33).mem.write 4 9 ≠ (sample 0x33).mem ∧ ∃ t, step (sample 0x33) = .next t :=
  ⟨by decide, by decide, _, rfl⟩
/-- Each clause of ClockEdgePriority is met by some inputs and state. -/
theorem witness_ClockEdgePriority :
    (resetEdge runEdge).rst = true ∧ (runEdge.run = true ∧ State.reset.status = .ready) ∧
    ((seedEdge 1 1).run = false ∧ (seedEdge 1 1).seedWe = true ∧ State.reset.started = false) ∧
    (idleEdge.run = false ∧ idleEdge.seedWe = false) := by decide
theorem witness_ResetEdgeRestores : (resetEdge (seedEdge 3 4)).rst = true := rfl
theorem witness_StepKeepsInvariant : (sample 0x002081B3).Inv ∧ ∃ t, step (sample 0x002081B3) = .next t :=
  ⟨sample_inv _, _, rfl⟩
theorem witness_ClockRunKeepsInvariant :
    (sample 0xFFDFF0EF).Inv ∧ ∃ t, clockRun [seedEdge 1 2, runEdge] (sample 0xFFDFF0EF) = .next t :=
  ⟨sample_inv _, _, rfl⟩
theorem witness_HostWritesKeepInvariant :
    (sample 0).Inv ∧ (∃ t, hostWriteByte 0xFFF 5 (sample 0) = .next t) ∧ ∃ t, loadImage [0x33, 0x6F] (sample 0) = .next t :=
  ⟨sample_inv _, ⟨_, rfl⟩, _, rfl⟩
theorem witness_FaultedCoreHolds :
    faultedSample.Inv ∧ faultedSample.status = .faulted ∧
    ∀ i ∈ [runEdge, seedEdge 1 1], i.rst = false := by
  have h := sample_inv 0x00000013
  refine ⟨{ h with
    ready := fun e => by cases e
    faulted := fun _ => ⟨rfl, { cause := .illegalInstruction, tval := 0x13 }, by decide, rfl, rfl, rfl⟩
    notStarted := fun e => by cases e
    trace := fun e => by cases e }, rfl, by decide⟩
theorem witness_HoldsWhileNotRun :
    (∀ i ∈ [idleEdge], i.rst = false ∧ i.run = false ∧ (i.seedWe = false ∨ State.reset.started = true)) ∧
    ∀ i ∈ [seedEdge 1 1], i.rst = false ∧ i.run = false ∧ (i.seedWe = false ∨ faultedSample.started = true) := by decide
theorem witness_FaultRecordWrittenOnce :
    runEdge.rst = false ∧ (∃ t, clockEdge runEdge (sample 0x13) = .next t) ∧ ∃ t, clockEdge runEdge faultedSample = .next t :=
  ⟨rfl, ⟨_, rfl⟩, _, rfl⟩
theorem witness_StartedSetByStepsOnly : ∃ t, clockEdge runEdge (sample 0x13) = .next t := ⟨_, rfl⟩
/-- The three writers of a register: an instruction, a seed, and reset. -/
theorem witness_RegistersChangeOnlyByTheirWriters :
    answers (clockEdge runEdge (sample 0x008000EF)) (fun t => decide (t.readReg 1 ≠ (sample 0x008000EF).readReg 1)) = true ∧
    answers (clockEdge (seedEdge 7 9) State.reset) (fun t => decide (t.readReg 7 ≠ State.reset.readReg 7)) = true ∧
    answers (clockEdge (resetEdge runEdge) (State.reset.writeReg 7 9)) (fun t =>
      decide (t.readReg 7 ≠ (State.reset.writeReg 7 9).readReg 7)) = true := by decide
theorem witness_MemoryConstantThroughRun : ∃ t, clockRun [runEdge, resetEdge idleEdge] (sample 0x33) = .next t := ⟨_, rfl⟩
theorem witness_TraceShowsTheStep : (sample 0x33).status = .ready ∧ ∃ t, step (sample 0x33) = .next t := ⟨by decide, _, rfl⟩
theorem witness_SeedOnlyBeforeFirstStep :
    (seedEdge 1 1).rst = false ∧ (seedEdge 1 1).run = false ∧ (seedEdge 1 1).seedWe = true := by decide
/-- The clauses of HostWriteChangesOneByte: after the first step, at MEM_SIZE, and at the last byte. -/
theorem witness_HostWriteChangesOneByte :
    hostWriteByte 0 1 faultedSample = .refused .hostWriteAfterStart ∧
    hostWriteByte 0x1000 1 State.reset = .refused .hostWriteOutOfMemory ∧
    answers (hostWriteByte 0xFFF 1 State.reset) (fun t => t.memByte 0xFFF == 1) = true :=
  ⟨rfl, rfl, by decide⟩
/-- An image that fills memory exactly. -/
theorem witness_LoadedImageIsFetched :
    let s : State := { State.reset with params := { memSize := 8, fetchAlignCheck := true } }
    s.started = false ∧ s.params.Legal ∧ 4 * [0x001080B3#32, 0x001080B3#32].length ≤ s.params.memSize := by decide
theorem witness_BootReachesLaunchState : 4 * [0x00000033#32].length ≤ faultedSample.params.memSize := by decide

end Sys2Proof.Tests
end

namespace Sys2Proof.Machine

/-! ### What a step can do, coarser than `step_cases`: hold, fault, or retire one instruction -/

/-- The state a committed step leaves: `v` written to `rd`, `started` set, and `pc` and `next_pc` both at `n`
(40_execution_cycle.md R82 to R85). ADD and JAL are the two ways to reach it: `addNext_eq_retire` and
`jalNext_eq_retire`. -/
def State.retire (s : State) (rd : RegIdx) (v n : Word) : State :=
  ((s.stage.writeReg rd v).writeNextPc n).commit

theorem addNext_eq_retire (s : State) (rd rs1 rs2 : RegIdx) :
    addNext s rd rs1 rs2 = s.retire rd (aluAdd (s.readReg rs1) (s.readReg rs2)) (s.pc + 4#32) := rfl

theorem jalNext_eq_retire (s : State) (rd : RegIdx) (immJ : Word) :
    jalNext s rd immJ = s.retire rd (s.pc + 4#32) (s.pc + immJ) := rfl

@[simp] theorem State.retire_status (s : State) (rd : RegIdx) (v n : Word) : (s.retire rd v n).status = s.status := rfl
@[simp] theorem State.retire_started (s : State) (rd : RegIdx) (v n : Word) : (s.retire rd v n).started = true := rfl

theorem State.readReg_retire (s : State) (rd r : RegIdx) (v n : Word) :
    (s.retire rd v n).readReg r = if r = 0#5 then 0#32 else if r = rd then v else s.readReg r :=
  s.stage.readReg_writeReg rd r v

/-- The destination of a decoded instruction is bits 11 to 7 of its word (30_encoding.md R56). -/
theorem rd_of_decode_add {w : Word} {rd rs1 rs2 : RegIdx} (h : decode w = .ok (.add rd rs1 rs2)) : rd = rdOf w := by
  rw [decode_eq] at h
  split at h <;> split at h <;> simp_all

theorem rd_of_decode_jal {w immJ : Word} {rd : RegIdx} (h : decode w = .ok (.jal rd immJ)) : rd = rdOf w := by
  rw [decode_eq] at h
  split at h <;> split at h <;> simp_all

theorem add_getLsbD_zero {a b : Word} (ha : a.getLsbD 0 = false) (hb : b.getLsbD 0 = false) :
    (a + b).getLsbD 0 = false := by
  rw [BitVec.getLsbD_add (by decide), ha, hb]; simp

/-- A step that answers holds a FAULTED core, takes the fault of its fetch, or retires the fetched word into its `rd`,
keeping an even `pc` even. -/
theorem step_next_cases {s t : State} (h : step s = .next t) :
    (s.status = .faulted ∧ t = s.hold) ∨
    (s.status = .ready ∧ ∃ r, s.fetchInstr = .error r ∧ t = s.takeFault r) ∨
    (s.status = .ready ∧ ∃ w v n, s.fetchWord s.pc = .ok w ∧ t = s.retire (rdOf w) v n ∧
      (s.pc.getLsbD 0 = false → n.getLsbD 0 = false)) := by
  obtain ⟨hs, he⟩ | ⟨hs, r, hr, he⟩ | ⟨hs, rd, rs1, rs2, hi, he⟩ | ⟨hs, rd, immJ, hi, he⟩ := step_cases s
  all_goals rw [he, Host.Outcome.next.injEq] at h; subst h
  · exact .inl ⟨hs, rfl⟩
  · exact .inr (.inl ⟨hs, r, hr, rfl⟩)
  · obtain ⟨w, hw, hd⟩ := s.fetchInstr_ok hi
    obtain rfl := rd_of_decode_add hd
    exact .inr (.inr ⟨hs, w, _, _, hw, addNext_eq_retire s _ rs1 rs2, fun hpc => add_getLsbD_zero hpc (by decide)⟩)
  · obtain ⟨w, hw, hd⟩ := s.fetchInstr_ok hi
    have heven := decode_jal_even hd
    obtain rfl := rd_of_decode_jal hd
    exact .inr (.inr ⟨hs, w, _, _, hw, jalNext_eq_retire s _ immJ, fun hpc => add_getLsbD_zero hpc heven⟩)

/-- A clock edge that answers resets, steps a READY core, seeds a register or holds. -/
theorem clockEdge_next_cases {i : Inputs} {s t : State} (h : clockEdge i s = .next t) :
    (i.rst = true ∧ t = s.resetCore) ∨
    (i.rst = false ∧ i.run = true ∧ s.status = .ready ∧ step s = .next t) ∨
    (i.rst = false ∧ i.run = false ∧ i.seedWe = true ∧ s.started = false ∧
      t = s.hold.writeReg i.seedIdx i.seedData) ∨
    (i.rst = false ∧ (i.run = true → s.status = .faulted) ∧ t = s.hold) := by
  obtain ⟨h1, he⟩ | ⟨h1, h2, h3, he⟩ | ⟨h1, h2, h3, h4, he⟩ | ⟨h1, h2, he⟩ := clockEdge_cases s i
  all_goals rw [he] at h
  · exact .inl ⟨h1, by simpa using h.symm⟩
  · exact .inr (.inl ⟨h1, h2, h3, h⟩)
  · exact .inr (.inr (.inl ⟨h1, h2, h3, h4, by simpa using h.symm⟩))
  · exact .inr (.inr (.inr ⟨h1, h2, by simpa using h.symm⟩))

/-- A run that answers answers at its first edge. -/
theorem clockRun_cons_next {i : Inputs} {rest : List Inputs} {s t : State} (h : clockRun (i :: rest) s = .next t) :
    ∃ u, clockEdge i s = .next u ∧ clockRun rest u = .next t := by
  unfold clockRun at h
  split at h
  · next u hu => exact ⟨u, hu, h⟩
  · cases h
  · cases h

/-- What every clock edge keeps, every run keeps. -/
theorem clockRun_preserves {P : State → Prop} (hedge : ∀ i s t, P s → clockEdge i s = .next t → P t)
    (ins : List Inputs) (s t : State) (hs : P s) (h : clockRun ins s = .next t) : P t := by
  induction ins generalizing s with
  | nil =>
    obtain rfl : s = t := by simpa [clockRun] using h
    exact hs
  | cons i rest ih =>
    obtain ⟨u, hu, hrest⟩ := clockRun_cons_next h
    exact ih u (hedge i s u hs hu) hrest

/-! ### Each way a state changes keeps the invariant -/

@[simp] theorem State.hold_fetchInstr (s : State) : s.hold.fetchInstr = s.fetchInstr :=
  State.fetchInstr_congr rfl rfl rfl

@[simp] theorem State.writeReg_fetchInstr (s : State) (i : RegIdx) (v : Word) :
    (s.writeReg i v).fetchInstr = s.fetchInstr :=
  State.fetchInstr_congr rfl rfl rfl

@[simp] theorem State.takeFault_fetchInstr (s : State) (r : Raised) : (s.takeFault r).fetchInstr = s.fetchInstr :=
  State.fetchInstr_congr rfl rfl rfl

theorem State.hold_recordsItsFault {s : State} : s.hold.RecordsItsFault ↔ s.RecordsItsFault := by
  simp [State.RecordsItsFault]

theorem State.writeReg_recordsItsFault {s : State} (i : RegIdx) (v : Word) :
    (s.writeReg i v).RecordsItsFault ↔ s.RecordsItsFault := by
  simp [State.RecordsItsFault]

/-- A retry of the faulting step would raise the same fault again (60_exceptions.md R113). -/
theorem State.takeFault_recordsItsFault {s : State} {r : Raised} (hr : s.fetchInstr = .error r) :
    (s.takeFault r).RecordsItsFault :=
  ⟨r, by simpa using hr, rfl, rfl, rfl⟩

theorem State.Inv.hold {s : State} (h : s.Inv) : s.hold.Inv :=
  { h with
    faulted := fun e => (h.faulted e).imp_right State.hold_recordsItsFault.mpr
    trace := fun e => by simp at e }

theorem State.Inv.writeReg {s : State} (h : s.Inv) (i : RegIdx) (v : Word) : (s.writeReg i v).Inv :=
  { h with
    slotZero := (s.writeReg_slotZero i v).trans h.slotZero
    faulted := fun e => (h.faulted e).imp_right (State.writeReg_recordsItsFault i v).mpr }

theorem State.Inv.takeFault {s : State} (h : s.Inv) {r : Raised} (hr : s.fetchInstr = .error r) :
    (s.takeFault r).Inv :=
  { h with
    ready := fun e => by simp at e
    faulted := fun _ => ⟨rfl, State.takeFault_recordsItsFault hr⟩
    notStarted := fun e => by simp at e
    trace := fun e => by simp at e }

theorem State.Inv.retire {s : State} (h : s.Inv) (hs : s.status = .ready) (rd : RegIdx) (v : Word) {n : Word}
    (hn : n.getLsbD 0 = false) : (s.retire rd v n).Inv :=
  { h with
    slotZero := (s.stage.writeReg_slotZero rd v).trans h.slotZero
    pcEven := hn
    nextPc := rfl
    faulted := fun e => by simp [hs] at e
    notStarted := fun e => by simp at e
    trace := fun _ => ⟨rfl, hs⟩ }

/-- Reset needs of the state before it only what it keeps: the parameters and memory (70_reset_and_hazards.md R124). -/
theorem State.resetCore_inv {s : State} (hp : s.params.Legal) (hwf : s.mem.wf = true)
    (hin : s.mem.within s.params.memSize = true) : s.resetCore.Inv where
  params := hp
  memWf := hwf
  memWithin := hin
  slotZero := by simp
  pcEven := by simp
  nextPc := rfl
  ready := fun _ => ⟨rfl, rfl, rfl⟩
  faulted := fun e => by simp at e
  notStarted := fun _ => rfl
  trace := fun e => by simp at e

theorem step_preserves_inv {s t : State} (hi : s.Inv) (h : step s = .next t) : t.Inv := by
  obtain ⟨-, rfl⟩ | ⟨-, r, hr, rfl⟩ | ⟨hs, w, v, n, -, rfl, hn⟩ := step_next_cases h
  · exact hi.hold
  · exact hi.takeFault hr
  · exact hi.retire hs (rdOf w) v (hn hi.pcEven)

theorem clockEdge_preserves_inv (i : Inputs) (s t : State) (hi : s.Inv) (h : clockEdge i s = .next t) : t.Inv := by
  obtain ⟨-, rfl⟩ | ⟨-, -, -, hstep⟩ | ⟨-, -, -, -, rfl⟩ | ⟨-, -, rfl⟩ := clockEdge_next_cases h
  · exact State.resetCore_inv hi.params hi.memWf hi.memWithin
  · exact step_preserves_inv hi hstep
  · exact hi.hold.writeReg i.seedIdx i.seedData
  · exact hi.hold

/-- Settles O28: a step holds, faults or retires, and each of the three keeps the invariant. -/
theorem stepKeepsInvariant : Obligations.StepKeepsInvariant :=
  fun _ _ => step_preserves_inv

/-- Settles O29, by induction on the inputs with the invariant kept at each edge. -/
theorem clockRunKeepsInvariant : Obligations.ClockRunKeepsInvariant :=
  clockRun_preserves clockEdge_preserves_inv

/-- Settles O27: the reset state is a reset of itself, with legal parameters and no byte written. -/
theorem resetMeetsInvariant : Obligations.ResetMeetsInvariant :=
  State.resetCore_inv (s := State.reset) (show 4 ≤ 0x1000 ∧ 0x1000 ≤ 2 ^ 32 by decide) rfl rfl

/-! ### The register file -/

theorem lastWrite_cons (w : RegIdx × Word) (ws : List (RegIdx × Word)) (i : RegIdx) (old : Word) :
    lastWrite (w :: ws) i old = lastWrite ws i (if w.1 = i then w.2 else old) := rfl

theorem writeRegs_cons (w : RegIdx × Word) (ws : List (RegIdx × Word)) (s : State) :
    writeRegs (w :: ws) s = writeRegs ws (s.writeReg w.1 w.2) := rfl

theorem readReg_writeRegs (ws : List (RegIdx × Word)) (s : State) (i : RegIdx) :
    (writeRegs ws s).readReg i = if i = 0#5 then 0#32 else lastWrite ws i (s.readReg i) := by
  by_cases hi : i = 0#5
  · simp [hi]
  · induction ws generalizing s with
    | nil => simp [hi, writeRegs, lastWrite]
    | cons w ws ih => simp [writeRegs_cons, lastWrite_cons, ih, State.readReg_writeReg, hi, eq_comm]

@[simp] theorem State.resetCore_readReg (s : State) (i : RegIdx) : s.resetCore.readReg i = 0#32 := by
  simp [State.readReg]

/-- Settles O8, by induction on the list of writes. -/
theorem registerReadsLastWrite : Obligations.RegisterReadsLastWrite :=
  ⟨readReg_writeRegs, State.resetCore_readReg⟩

/-- A register that is not written reads as it did, x0 too. -/
theorem State.readReg_writeReg_ne (s : State) {i j : RegIdx} (v : Word) (h : j ≠ i) :
    (s.writeReg i v).readReg j = s.readReg j := by
  rw [State.readReg_writeReg, if_neg h]
  split
  · next h0 => rw [h0, State.readReg_zero]
  · rfl

/-- Settles O9: the read-after-write law for the written and the other registers; the frame is the record update. -/
theorem registerWriteChangesOneSlot : Obligations.RegisterWriteChangesOneSlot := by
  intro s i v
  refine ⟨s.writeReg_zero v, fun hi => ?_, fun j hj => s.readReg_writeReg_ne v hj, rfl⟩
  rw [State.readReg_writeReg, if_neg hi, if_pos rfl]

/-! ### What a step reads of the registers -/

/-- A field that a mask keeps whole is the field of the matched value. -/
theorem extractLsb'_of_masked {w mask value : Word} (h : w &&& mask = value) (i n : Nat)
    (hm : mask.extractLsb' i n = BitVec.allOnes n) : w.extractLsb' i n = value.extractLsb' i n := by
  rw [← h, BitVec.extractLsb'_and, hm, BitVec.and_allOnes]

theorem decode_of_jal_row {w : Word} (h : w &&& 0x0000007F#32 = 0x0000006F#32) :
    decode w = .ok (.jal (rdOf w) (immJOf w)) := by
  have hop : opcodeOf w = 0x6F#7 := extractLsb'_of_masked h 0 7 (by decide)
  simp [decode_eq, hop]

theorem decode_of_add_row {w : Word} (h : w &&& 0xFE00707F#32 = 0x00000033#32) :
    decode w = .ok (.add (rdOf w) (rs1Of w) (rs2Of w)) := by
  have hop : opcodeOf w = 0x33#7 := extractLsb'_of_masked h 0 7 (by decide)
  have hf3 : funct3Of w = 0#3 := extractLsb'_of_masked h 12 3 (by decide)
  have hf7 : funct7Of w = 0#7 := extractLsb'_of_masked h 25 7 (by decide)
  simp [decode_eq, hop, hf3, hf7]

theorem State.fetchInstr_of_decode {s : State} {w : Word} {i : Instr} (hw : s.fetchWord s.pc = .ok w)
    (hd : decode w = .ok i) : s.fetchInstr = .ok i := by
  simp [State.fetchInstr, hw, hd]

theorem step_add {s : State} (hs : s.status = .ready) {rd rs1 rs2 : RegIdx}
    (hi : s.fetchInstr = .ok (.add rd rs1 rs2)) : step s = .next (addNext s rd rs1 rs2) := by
  rw [step_runs s hs hi]; rfl

theorem step_jal {s : State} (hs : s.status = .ready) {rd : RegIdx} {immJ : Word}
    (hi : s.fetchInstr = .ok (.jal rd immJ)) : step s = .next (jalNext s rd immJ) := by
  rw [step_runs s hs hi]; rfl

theorem State.fetchInstr_with_regs (s : State) (regs : Vector Word 32) :
    State.fetchInstr { s with regs := regs } = s.fetchInstr :=
  State.fetchInstr_congr rfl rfl rfl

/-- The same value retired into the same `rd` over other registers: `rd` reads the same, all else as before. -/
theorem State.retire_with_regs (s : State) (regs : Vector Word 32) (rd : RegIdx) (v n : Word) :
    let u := State.retire { s with regs := regs } rd v n
    u = { s.retire rd v n with regs := u.regs } ∧ u.readReg rd = (s.retire rd v n).readReg rd ∧
      ∀ r, r ≠ rd → u.readReg r = State.readReg { s with regs := regs } r := by
  refine ⟨rfl, ?_, fun r hr => State.readReg_writeReg_ne _ v hr⟩
  simp [State.readReg_retire]

/-- Settles O16: the link and the target of a JAL are computed from `pc` and the word alone. -/
theorem jalIgnoresRegisters : Obligations.JalIgnoresRegisters := by
  intro s t w regs hs hw hrow h
  have hi := State.fetchInstr_of_decode hw (decode_of_jal_row hrow)
  obtain rfl : jalNext s (rdOf w) (immJOf w) = t := by simpa [step_jal hs hi] using h
  have hstep := step_jal (s := { s with regs := regs }) hs ((s.fetchInstr_with_regs regs).trans hi)
  exact ⟨_, hstep, s.retire_with_regs regs (rdOf w) _ _⟩

/-- Settles O17: the sum is computed from the two sources, and the next `pc` from `pc`. -/
theorem addReadsOnlyItsSources : Obligations.AddReadsOnlyItsSources := by
  intro s t w regs hs hw hrow h h1 h2
  have hi := State.fetchInstr_of_decode hw (decode_of_add_row hrow)
  obtain rfl : addNext s (rdOf w) (rs1Of w) (rs2Of w) = t := by simpa [step_add hs hi] using h
  have hstep := step_add (s := { s with regs := regs }) hs ((s.fetchInstr_with_regs regs).trans hi)
  rw [addNext_eq_retire, show State.readReg _ (rs1Of w) = _ from h1,
    show State.readReg _ (rs2Of w) = _ from h2] at hstep
  exact ⟨_, hstep, s.retire_with_regs regs (rdOf w) _ _⟩

/-! ### What a step reads of memory -/

theorem State.wordAt_congr {s t : State} {a : Word}
    (h : ∀ j, j < 4 → t.memByte (a.toNat + j) = s.memByte (a.toNat + j)) : t.wordAt a = s.wordAt a := by
  have h0 : t.memByte a.toNat = s.memByte a.toNat := h 0 (by decide)
  rw [State.wordAt, State.wordAt, h0, h 1 (by decide), h 2 (by decide), h 3 (by decide)]

theorem State.fetchInstr_with_mem {s : State} {m : Memory}
    (h : ∀ j, j < 4 → State.memByte { s with mem := m } (s.pc.toNat + j) = s.memByte (s.pc.toNat + j)) :
    State.fetchInstr { s with mem := m } = s.fetchInstr := by
  simp only [State.fetchInstr, State.fetchWord, State.wordAt_congr h]

/-- Settles O24: the word at `pc` is the same, and nothing after the fetch reads memory. -/
theorem stepIgnoresUnfetchedMemory : Obligations.StepIgnoresUnfetchedMemory := by
  intro s t m hbytes h
  have hf := State.fetchInstr_with_mem hbytes
  obtain ⟨hs, he⟩ | ⟨hs, r, hr, he⟩ | ⟨hs, rd, rs1, rs2, hi, he⟩ | ⟨hs, rd, immJ, hi, he⟩ := step_cases s
  all_goals rw [he, Host.Outcome.next.injEq] at h; subst h
  · exact step_faulted { s with mem := m } hs
  · exact step_raises { s with mem := m } hs (hf.trans hr)
  · exact step_add (s := { s with mem := m }) hs (hf.trans hi)
  · exact step_jal (s := { s with mem := m }) hs (hf.trans hi)

/-! ### Who writes the status, the record, `started` and the registers -/

/-- Settles O34: of the edges without reset only a step's fault entry writes the status and the record. -/
theorem faultRecordWrittenOnce : Obligations.FaultRecordWrittenOnce := by
  intro i s t hrst h
  obtain ⟨hr, -⟩ | ⟨-, hrun, hs, hstep⟩ | ⟨-, -, -, -, rfl⟩ | ⟨-, -, rfl⟩ := clockEdge_next_cases h
  · simp [hrst] at hr
  · obtain ⟨hf, -⟩ | ⟨-, r, -, rfl⟩ | ⟨-, w, v, n, -, rfl, -⟩ := step_next_cases hstep
    · simp [hs] at hf
    · exact ⟨fun _ => rfl, .inr ⟨hrun, hs, rfl, r.cause.code, r.tval, rfl⟩⟩
    · exact ⟨id, .inl ⟨rfl, rfl, rfl, rfl⟩⟩
  · exact ⟨id, .inl ⟨rfl, rfl, rfl, rfl⟩⟩
  · exact ⟨id, .inl ⟨rfl, rfl, rfl, rfl⟩⟩

/-- A step of a READY core sets `started`, whether it commits or faults. -/
theorem step_started {s t : State} (hs : s.status = .ready) (h : step s = .next t) : t.started = true := by
  obtain ⟨hf, -⟩ | ⟨-, r, -, rfl⟩ | ⟨-, w, v, n, -, rfl, -⟩ := step_next_cases h
  · simp [hs] at hf
  · rfl
  · rfl

/-- Settles O35, by the four kinds of edge. -/
theorem startedSetByStepsOnly : Obligations.StartedSetByStepsOnly := by
  intro i s t h
  obtain ⟨hr, rfl⟩ | ⟨hr, hrun, hs, hstep⟩ | ⟨hr, hrun, -, -, rfl⟩ | ⟨hr, hf, rfl⟩ := clockEdge_next_cases h
  · simp [hr]
  · simp [hr, hrun, hs, step_started hs hstep]
  · simp [hr, hrun]
  · have hno : ¬ (i.run = true ∧ s.status = .ready) := fun ⟨hrun, hs⟩ => by simp [hf hrun] at hs
    simp [hr, hno]

/-- A register that reads otherwise after a write is the one written, is not x0, and reads the value written. -/
theorem State.readReg_writeReg_changed {s : State} {i r : RegIdx} {v : Word}
    (h : (s.writeReg i v).readReg r ≠ s.readReg r) : r = i ∧ (s.writeReg i v).readReg r = v := by
  have hri : r = i := by_contra fun hne => h (s.readReg_writeReg_ne v hne)
  have hr0 : r ≠ 0#5 := fun h0 => h (by simp [h0])
  exact ⟨hri, by rw [State.readReg_writeReg, if_neg hr0, if_pos hri]⟩

/-- Settles O36, by the kinds of edge and of step. -/
theorem registersChangeOnlyByTheirWriters : Obligations.RegistersChangeOnlyByTheirWriters := by
  intro i s t r h hne
  refine ⟨fun h0 => hne (by simp [h0]), ?_⟩
  obtain ⟨hr, -⟩ | ⟨-, hrun, hs, hstep⟩ | ⟨-, hrun, hwe, hst, rfl⟩ | ⟨-, -, rfl⟩ := clockEdge_next_cases h
  · exact .inl hr
  · obtain ⟨hf, -⟩ | ⟨-, f, -, rfl⟩ | ⟨-, w, v, n, hw, rfl, -⟩ := step_next_cases hstep
    · simp [hs] at hf
    · exact absurd (s.takeFault_readReg f r) hne
    · exact .inr (.inl ⟨hrun, hs, hs, w, hw, (State.readReg_writeReg_changed (s := s.stage) hne).1⟩)
  · obtain ⟨hr, hv⟩ := State.readReg_writeReg_changed (s := s.hold) hne
    exact .inr (.inr ⟨hrun, hwe, hst, hr, hv⟩)
  · exact absurd (s.hold_readReg r) hne

end Sys2Proof.Machine

namespace Sys2Proof.Machine

/-! ### The instruction fetch by its cases -/

/-- The alignment check on the address as a number (20_memory.md R49). -/
theorem misalignedFetch_iff (p : Params) (a : Word) :
    misalignedFetch p a = true ↔ p.fetchAlignCheck = true ∧ a.toNat % 4 ≠ 0 := by
  simp [misalignedFetch, BitVec.toNat_eq]

theorem outOfBoundsFetch_iff (p : Params) (a : Word) : outOfBoundsFetch p a = true ↔ p.memSize ≤ a.toNat + 3 :=
  decide_eq_true_iff

/-- Appended below `x`, the bits of `y` are the low digits of the sum. -/
theorem toNat_append_eq_add {m n : Nat} (x : BitVec m) (y : BitVec n) :
    (x ++ y).toNat = x.toNat * 2 ^ n + y.toNat := by
  rw [BitVec.toNat_append, ← Nat.shiftLeft_add_eq_or_of_lt y.isLt, Nat.shiftLeft_eq]

/-- The bytes of a little-endian word are its digits of base 256, lowest first (20_memory.md R38). -/
theorem leWord_toNat (b0 b1 b2 b3 : Byte) :
    (leWord b0 b1 b2 b3).toNat = b0.toNat + 2 ^ 8 * b1.toNat + 2 ^ 16 * b2.toNat + 2 ^ 24 * b3.toNat := by
  simp only [leWord, toNat_append_eq_add]
  omega

/-- Settles O18, by the three answers of a fetch. -/
theorem fetchWordByCases : Obligations.FetchWordByCases := by
  intro s a
  simp only [← misalignedFetch_iff, ← outOfBoundsFetch_iff]
  obtain ⟨hm, he⟩ | ⟨hm, hb, he⟩ | ⟨hm, hb, he⟩ := s.fetchWord_cases a
  · simp [hm, he]
  · simp [hm, hb, he]
  · rw [hm, hb]
    exact ⟨s.wordAt a, he, leWord_toNat _ _ _ _⟩

/-! ### What the host writes into memory -/

/-- A core that has not started keeps the invariant over any canonical memory below MEM_SIZE: it is not FAULTED, so it
holds no fault record that its memory must reproduce. -/
theorem State.Inv.with_mem {s : State} (h : s.Inv) (hst : s.started = false) {m : Memory} (hwf : m.wf = true)
    (hin : m.within s.params.memSize = true) : State.Inv { s with mem := m } :=
  { h with
    memWf := hwf
    memWithin := hin
    faulted := fun e => absurd (h.faulted e).1 (by simp [hst]) }

theorem hostWriteByte_next {a : Nat} {b : Byte} {s t : State} (h : hostWriteByte a b s = .next t) :
    s.started = false ∧ a < s.params.memSize ∧ t = { s with mem := s.mem.write a b } := by
  unfold hostWriteByte at h
  split at h
  · cases h
  · next hst =>
    split at h
    · cases h
    · next ha => exact ⟨by simpa using hst, by omega, by simpa using h.symm⟩

theorem loadImage_next {image : List Word} {s t : State} (h : loadImage image s = .next t) :
    s.started = false ∧ 4 * image.length ≤ s.params.memSize ∧
      t = { s with mem := s.mem.writeBytes 0 (image.flatMap wordBytes) } := by
  unfold loadImage at h
  split at h
  · cases h
  · next hst =>
    split at h
    · cases h
    · next hlen => exact ⟨by simpa using hst, by omega, by simpa using h.symm⟩

theorem length_flatMap_wordBytes (image : List Word) : (image.flatMap wordBytes).length = 4 * image.length := by
  simp [List.length_flatMap, wordBytes, Nat.mul_comm]

/-- Settles O30: both moves need a core that has not started, and what they write is canonical and below MEM_SIZE. -/
theorem hostWritesKeepInvariant : Obligations.HostWritesKeepInvariant := by
  refine ⟨fun a b s t hi h => ?_, fun image s t hi h => ?_⟩
  · obtain ⟨hst, ha, rfl⟩ := hostWriteByte_next h
    exact hi.with_mem hst (s.mem.write_wf a b hi.memWf) (s.mem.write_within _ a b ha hi.memWithin)
  · obtain ⟨hst, hlen, rfl⟩ := loadImage_next h
    have hfits : 0 + (image.flatMap wordBytes).length ≤ s.params.memSize := by
      rwa [Nat.zero_add, length_flatMap_wordBytes]
    exact hi.with_mem hst (Memory.writeBytes_wf _ s.mem 0 hi.memWf)
      (Memory.writeBytes_within _ s.mem _ 0 hfits hi.memWithin)

/-! ### No clock edge writes memory -/

theorem State.memByte_congr {s t : State} (h : t.mem = s.mem) (a : Nat) : t.memByte a = s.memByte a := by
  rw [State.memByte, State.memByte, h]

theorem step_frame {s t : State} (h : step s = .next t) : t.mem = s.mem ∧ t.params = s.params := by
  obtain ⟨-, rfl⟩ | ⟨-, r, -, rfl⟩ | ⟨-, w, v, n, -, rfl, -⟩ := step_next_cases h
  · exact ⟨rfl, rfl⟩
  · exact ⟨rfl, rfl⟩
  · exact ⟨rfl, rfl⟩

/-- Reset too keeps memory and the parameters (70_reset_and_hazards.md R124). -/
theorem clockEdge_frame {i : Inputs} {s t : State} (h : clockEdge i s = .next t) :
    t.mem = s.mem ∧ t.params = s.params := by
  obtain ⟨-, rfl⟩ | ⟨-, -, -, hstep⟩ | ⟨-, -, -, -, rfl⟩ | ⟨-, -, rfl⟩ := clockEdge_next_cases h
  · exact ⟨rfl, rfl⟩
  · exact step_frame hstep
  · exact ⟨rfl, rfl⟩
  · exact ⟨rfl, rfl⟩

theorem clockRun_frame {ins : List Inputs} {s t : State} (h : clockRun ins s = .next t) :
    t.mem = s.mem ∧ t.params = s.params := by
  refine clockRun_preserves (P := fun u => u.mem = s.mem ∧ u.params = s.params) ?_ ins s t ⟨rfl, rfl⟩ h
  intro i u v ⟨hmem, hparams⟩ he
  obtain ⟨hmem', hparams'⟩ := clockEdge_frame he
  exact ⟨hmem'.trans hmem, hparams'.trans hparams⟩

/-- Settles O37: each edge keeps memory and the parameters, so a run does, and a byte is read from memory alone. -/
theorem memoryConstantThroughRun : Obligations.MemoryConstantThroughRun := by
  intro ins s t h
  obtain ⟨hmem, hparams⟩ := clockRun_frame h
  exact ⟨hmem, hparams, State.memByte_congr hmem⟩

end Sys2Proof.Machine

namespace Sys2Proof.Machine

/-! ### Words as numbers: a packed word is the sum of its fields (30_encoding.md R56, R59 to R61) -/

theorem toNat_extractLsb'_eq_digit {n : Nat} (x : BitVec n) (i len : Nat) :
    (x.extractLsb' i len).toNat = x.toNat / 2 ^ i % 2 ^ len := by
  rw [BitVec.extractLsb'_toNat, Nat.shiftRight_eq_div_pow]

section
variable (w : Word) (op : BitVec 7) (rd : RegIdx) (f3 : BitVec 3) (rs1 rs2 : RegIdx) (f7 : BitVec 7) (immJ : Word)

theorem packR_toNat :
    (packR op rd f3 rs1 rs2 f7).toNat =
      op.toNat + 2 ^ 7 * rd.toNat + 2 ^ 12 * f3.toNat + 2 ^ 15 * rs1.toNat + 2 ^ 20 * rs2.toNat
        + 2 ^ 25 * f7.toNat := by
  simp only [packR, toNat_append_eq_add]
  omega

theorem packJ_toNat :
    (packJ op rd immJ).toNat =
      op.toNat + 2 ^ 7 * rd.toNat + 2 ^ 12 * (immJ.extractLsb' 12 8).toNat + 2 ^ 20 * (immJ.extractLsb' 11 1).toNat
        + 2 ^ 21 * (immJ.extractLsb' 1 10).toNat + 2 ^ 31 * (immJ.extractLsb' 20 1).toNat := by
  simp only [packJ, toNat_append_eq_add]
  omega

theorem imm21Of_toNat :
    (imm21Of w).toNat =
      2 * (w.extractLsb' 21 10).toNat + 2 ^ 11 * (w.extractLsb' 20 1).toNat + 2 ^ 12 * (w.extractLsb' 12 8).toNat
        + 2 ^ 20 * (w.extractLsb' 31 1).toNat := by
  simp only [imm21Of, toNat_append_eq_add, BitVec.toNat_ofNat]
  omega

/-! ### R-type: packing and extracting undo each other (30_encoding.md R58) -/

theorem fields_packR :
    opcodeOf (packR op rd f3 rs1 rs2 f7) = op ∧ rdOf (packR op rd f3 rs1 rs2 f7) = rd ∧
    funct3Of (packR op rd f3 rs1 rs2 f7) = f3 ∧ rs1Of (packR op rd f3 rs1 rs2 f7) = rs1 ∧
    rs2Of (packR op rd f3 rs1 rs2 f7) = rs2 ∧ funct7Of (packR op rd f3 rs1 rs2 f7) = f7 := by
  simp only [BitVec.toNat_eq, opcodeOf, rdOf, funct3Of, rs1Of, rs2Of, funct7Of, toNat_extractLsb'_eq_digit, packR_toNat]
  omega

theorem packR_fields : packR (opcodeOf w) (rdOf w) (funct3Of w) (rs1Of w) (rs2Of w) (funct7Of w) = w := by
  simp only [BitVec.toNat_eq, opcodeOf, rdOf, funct3Of, rs1Of, rs2Of, funct7Of, toNat_extractLsb'_eq_digit, packR_toNat]
  omega

/-! ### J-type: where the ranges of the immediate stand in the word (30_encoding.md R60, R61) -/

theorem opcodeOf_packJ : opcodeOf (packJ op rd immJ) = op := by
  rw [BitVec.toNat_eq, opcodeOf, toNat_extractLsb'_eq_digit, packJ_toNat]
  omega

theorem rdOf_packJ : rdOf (packJ op rd immJ) = rd := by
  rw [BitVec.toNat_eq, rdOf, toNat_extractLsb'_eq_digit, packJ_toNat]
  omega

theorem extractLsb'_packJ :
    (packJ op rd immJ).extractLsb' 21 10 = immJ.extractLsb' 1 10 ∧
    (packJ op rd immJ).extractLsb' 20 1 = immJ.extractLsb' 11 1 ∧
    (packJ op rd immJ).extractLsb' 12 8 = immJ.extractLsb' 12 8 ∧
    (packJ op rd immJ).extractLsb' 31 1 = immJ.extractLsb' 20 1 := by
  refine ⟨?_, ?_, ?_, ?_⟩ <;> rw [BitVec.toNat_eq, toNat_extractLsb'_eq_digit, packJ_toNat] <;> omega

theorem extractLsb'_imm21Of :
    (imm21Of w).extractLsb' 1 10 = w.extractLsb' 21 10 ∧ (imm21Of w).extractLsb' 11 1 = w.extractLsb' 20 1 ∧
    (imm21Of w).extractLsb' 12 8 = w.extractLsb' 12 8 ∧ (imm21Of w).extractLsb' 20 1 = w.extractLsb' 31 1 := by
  refine ⟨?_, ?_, ?_, ?_⟩ <;> rw [BitVec.toNat_eq, toNat_extractLsb'_eq_digit, imm21Of_toNat] <;> omega

/-! ### The sign extension of the assembled immediate -/

theorem immJOf_toInt : (immJOf w).toInt = (imm21Of w).toInt := BitVec.toInt_signExtend_of_le (by decide)

theorem setWidth_immJOf : (immJOf w).setWidth 21 = imm21Of w := by
  ext k hk
  rw [BitVec.getElem_setWidth, immJOf, BitVec.getLsbD_signExtend]
  simp [hk, show k < 32 by omega]

/-- Sign extension keeps the low 21 bits, so `imm_j` has the ranges of `imm21`. -/
theorem extractLsb'_immJOf :
    (immJOf w).extractLsb' 1 10 = w.extractLsb' 21 10 ∧ (immJOf w).extractLsb' 11 1 = w.extractLsb' 20 1 ∧
    (immJOf w).extractLsb' 12 8 = w.extractLsb' 12 8 ∧ (immJOf w).extractLsb' 20 1 = w.extractLsb' 31 1 := by
  have hlow {i len : Nat} (h : i + len ≤ 21) : (immJOf w).extractLsb' i len = (imm21Of w).extractLsb' i len := by
    rw [← setWidth_immJOf, BitVec.extractLsb'_setWidth_of_le h]
  obtain ⟨h1, h11, h12, h20⟩ := extractLsb'_imm21Of w
  exact ⟨(hlow (by decide)).trans h1, (hlow (by decide)).trans h11, (hlow (by decide)).trans h12,
    (hlow (by decide)).trans h20⟩

/-- The upper bits of `imm_j` copy its bit 20. -/
theorem getLsbD_immJOf_sign {k : Nat} (hk : 20 ≤ k) (hk' : k < 32) :
    (immJOf w).getLsbD k = (immJOf w).getLsbD 20 := by
  rw [immJOf, BitVec.getLsbD_signExtend, BitVec.getLsbD_signExtend, BitVec.msb_eq_getLsbD_last]
  by_cases h : k = 20
  · rw [h]
  · simp [hk', show ¬ k < 21 by omega]

/-! ### J-type: packing and extracting undo each other, for an even immediate in range (30_encoding.md R58, R62) -/

theorem packJ_fields : packJ (opcodeOf w) (rdOf w) (immJOf w) = w := by
  obtain ⟨h1, h11, h12, h20⟩ := extractLsb'_immJOf w
  rw [BitVec.toNat_eq, packJ_toNat, h1, h11, h12, h20]
  simp only [opcodeOf, rdOf, toNat_extractLsb'_eq_digit]
  omega

theorem immEven_iff : immEven immJ = true ↔ immJ.toInt % 2 = 0 := by
  simp only [immEven, BitVec.getLsbD, Nat.testBit_zero, BitVec.toInt_eq_toNat_cond, Bool.not_eq_true',
    decide_eq_false_iff_not]
  omega

theorem immInRange_iff : immInRange immJ = true ↔ -1048576 ≤ immJ.toInt ∧ immJ.toInt ≤ 1048574 := by
  simp [immInRange]

theorem immEven_immJOf : immEven (immJOf w) = true := by
  rw [immEven, immJOf_even, Bool.not_false]

/-- The 21-bit range gives 2^20 - 1 as upper bound; evenness sharpens it. -/
theorem immInRange_immJOf : immInRange (immJOf w) = true := by
  have heven := (immEven_iff _).1 (immEven_immJOf w)
  have hlo := (imm21Of w).le_toInt
  have hhi := (imm21Of w).toInt_lt
  rw [← immJOf_toInt] at hlo hhi
  rw [immInRange_iff]
  omega

variable {immJ}

/-- An even immediate loses only its upper bits when it is packed. -/
theorem imm21Of_packJ (he : immEven immJ = true) : imm21Of (packJ op rd immJ) = immJ.setWidth 21 := by
  obtain ⟨h1, h11, h12, h20⟩ := extractLsb'_packJ op rd immJ
  rw [immEven_iff, BitVec.toInt_eq_toNat_cond] at he
  rw [BitVec.toNat_eq, imm21Of_toNat, h1, h11, h12, h20, BitVec.toNat_setWidth]
  simp only [toNat_extractLsb'_eq_digit]
  omega

theorem immJOf_packJ (he : immEven immJ = true) (hr : immInRange immJ = true) : immJOf (packJ op rd immJ) = immJ := by
  rw [immInRange_iff, BitVec.toInt_eq_toNat_cond] at hr
  rw [← BitVec.toInt_inj, immJOf_toInt, imm21Of_packJ op rd he]
  simp only [BitVec.toInt_eq_toNat_cond, BitVec.toNat_setWidth]
  omega

end

/-! ### The decoder by opcode (30_encoding.md R65, R66) -/

theorem decode_of_opcR {w : Word} (h : opcodeOf w = Config.opcR) :
    decode w = if funct3Of w = 0#3 ∧ funct7Of w = 0#7 then .ok (.add (rdOf w) (rs1Of w) (rs2Of w))
      else .error .unimplemented := by
  simp [decode_eq, h, Config.opcR]

theorem decode_of_opcJ {w : Word} (h : opcodeOf w = Config.opcJ) : decode w = .ok (.jal (rdOf w) (immJOf w)) := by
  simp [decode_eq, h, Config.opcJ]

theorem decode_ok_cases {w : Word} {i : Instr} (h : decode w = .ok i) :
    (opcodeOf w = Config.opcR ∧ funct3Of w = 0#3 ∧ funct7Of w = 0#7 ∧ i = .add (rdOf w) (rs1Of w) (rs2Of w)) ∨
    (opcodeOf w = Config.opcJ ∧ i = .jal (rdOf w) (immJOf w)) := by
  rw [decode_eq] at h
  split at h
  · next hop =>
    split at h
    · next hf => exact .inl ⟨hop, hf.1, hf.2, (Except.ok.inj h).symm⟩
    · cases h
  · split at h
    · next hop => exact .inr ⟨hop, (Except.ok.inj h).symm⟩
    · cases h

/-- Settles O5: the packed fields are what the dispatch reads. -/
theorem rTypeDispatchByFunctPair : Obligations.RTypeDispatchByFunctPair := by
  intro rd f3 rs1 rs2 f7
  obtain ⟨hop, hrd, hf3, hrs1, hrs2, hf7⟩ := fields_packR Config.opcR rd f3 rs1 rs2 f7
  rw [decode_of_opcR hop, hrd, hf3, hrs1, hrs2, hf7]

/-! ### Encode and decode undo each other -/

theorem decode_encode {i : Instr} (h : i.wellFormed = true) : decode (encode i) = .ok i := by
  cases i with
  | add rd rs1 rs2 => exact rTypeDispatchByFunctPair rd 0#3 rs1 rs2 0#7
  | jal rd immJ =>
    obtain ⟨he, hr⟩ := Bool.and_eq_true_iff.1 h
    rw [encode, decode_of_opcJ (opcodeOf_packJ ..), rdOf_packJ, immJOf_packJ _ _ he hr]

/-- Settles O2, from the round trips of the two formats. -/
theorem encodingInvertible : Obligations.EncodingInvertible :=
  ⟨fields_packR,
    fun op rd immJ he hr => ⟨opcodeOf_packJ op rd immJ, rdOf_packJ op rd immJ, immJOf_packJ op rd he hr⟩,
    fun w => ⟨packR_fields w, packJ_fields w⟩,
    fun _ => decode_encode⟩

/-- Settles O3: a word is its packed fields, and the decoder fixes those fields that the instruction does not name. -/
theorem decodedWordIsItsEncoding : Obligations.DecodedWordIsItsEncoding := by
  intro w i h
  obtain ⟨hop, hf3, hf7, rfl⟩ | ⟨hop, rfl⟩ := decode_ok_cases h
  · have hpack := packR_fields w
    rw [hop, hf3, hf7] at hpack
    exact ⟨rfl, hpack⟩
  · have hpack := packJ_fields w
    rw [hop] at hpack
    exact ⟨Bool.and_eq_true_iff.2 ⟨immEven_immJOf w, immInRange_immJOf w⟩, hpack⟩

/-! ### The immediate, bit by bit and as a number -/

/-- A range equal to a range of another word holds that word's bits. -/
theorem getLsbD_of_extractLsb'_eq {m n : Nat} {x : BitVec m} {y : BitVec n} {i j len k l : Nat}
    (h : x.extractLsb' i len = y.extractLsb' j len) (hi : i ≤ k) (hk : k < i + len) (hl : l = j + (k - i)) :
    x.getLsbD k = y.getLsbD l := by
  have hbit := congrArg (BitVec.getLsbD · (k - i)) h
  simpa [BitVec.getLsbD_extractLsb', hl, show k - i < len by omega, show i + (k - i) = k by omega] using hbit

/-- Settles O6: each range of the immediate gives its bits, and the sign extension those above them. -/
theorem jImmediateBitLayout : Obligations.JImmediateBitLayout := by
  intro w
  obtain ⟨h1, h11, h12, h20⟩ := extractLsb'_immJOf w
  refine ⟨fun k hk => ?_, decode_of_opcJ⟩
  split_ifs
  · next hzero => rw [hzero, immJOf_even]
  · exact getLsbD_of_extractLsb'_eq h1 (by omega) (by omega) (by omega)
  · exact getLsbD_of_extractLsb'_eq h11 (by omega) (by omega) (by omega)
  · exact getLsbD_of_extractLsb'_eq h12 (by omega) (by omega) (by omega)
  · rw [getLsbD_immJOf_sign w (by omega) hk]
    exact getLsbD_of_extractLsb'_eq h20 (by decide) (by decide) (by decide)

/-- Settles O7: the immediate of a word is well-formed, and packing a value of the range gives the word it stands in. -/
theorem jImmediateRange : Obligations.JImmediateRange := by
  refine ⟨fun w => ?_, fun z rd heven hlo hhi => ?_⟩
  · exact ⟨(immEven_iff _).1 (immEven_immJOf w), (immInRange_iff _).1 (immInRange_immJOf w)⟩
  · have hz : (BitVec.ofInt 32 z).toInt = z := BitVec.toInt_ofInt_eq_self (by decide) (by omega) (by omega)
    have he : immEven (BitVec.ofInt 32 z) = true := by rwa [immEven_iff, hz]
    have hr : immInRange (BitVec.ofInt 32 z) = true := by rw [immInRange_iff, hz]; exact ⟨hlo, hhi⟩
    have himm := immJOf_packJ Config.opcJ rd he hr
    exact ⟨packJ Config.opcJ rd (BitVec.ofInt 32 z), opcodeOf_packJ .., rdOf_packJ .., by rw [himm, hz]⟩

/-! ### The masks of the opcode table as conditions on fields (30_encoding.md R67 to R70) -/

theorem and_opcodeMask (w : Word) : w &&& 0x0000007F#32 = (opcodeOf w).setWidth 32 := by
  simp only [BitVec.toNat_eq, BitVec.toNat_and, BitVec.toNat_setWidth, opcodeOf, toNat_extractLsb'_eq_digit]
  rw [show (0x0000007F#32).toNat = 2 ^ 7 - 1 from rfl, Nat.and_two_pow_sub_one_eq_mod]
  omega

theorem and_opcodeMask_eq_iff (w : Word) (op : BitVec 7) :
    w &&& 0x0000007F#32 = op.setWidth 32 ↔ opcodeOf w = op := by
  rw [and_opcodeMask, BitVec.toNat_eq, BitVec.toNat_eq, BitVec.toNat_setWidth, BitVec.toNat_setWidth]
  omega

/-- The mask keeps the three fields whole; conversely a word with these fields is an encoded ADD. -/
theorem addRow_iff (w : Word) :
    w &&& 0xFE00707F#32 = 0x00000033#32 ↔ opcodeOf w = 0x33#7 ∧ funct3Of w = 0#3 ∧ funct7Of w = 0#7 := by
  constructor
  · intro h
    exact ⟨extractLsb'_of_masked h 0 7 (by decide), extractLsb'_of_masked h 12 3 (by decide),
      extractLsb'_of_masked h 25 7 (by decide)⟩
  · rintro ⟨hop, hf3, hf7⟩
    have hrow := Laws.EncodedWord.add (rdOf w) (rs1Of w) (rs2Of w)
    have hpack := packR_fields w
    rw [hop, hf3, hf7] at hpack
    rwa [Laws.EncodedWord.Statement, encode, Config.opcR, hpack] at hrow

/-- Settles O4: each mask is a condition on fields, and the cases are those of the dispatch. -/
theorem everyWordIsOneOfFour : Obligations.EveryWordIsOneOfFour := by
  intro w
  have hJ : w &&& 0x0000007F#32 = 0x0000006F#32 ↔ opcodeOf w = 0x6F#7 := and_opcodeMask_eq_iff w 0x6F#7
  have hR : w &&& 0x0000007F#32 = 0x00000033#32 ↔ opcodeOf w = 0x33#7 := and_opcodeMask_eq_iff w 0x33#7
  simp only [addRow_iff, hJ, hR, decode_eq]
  by_cases hop : opcodeOf w = 0x33#7
  · by_cases hf : funct3Of w = 0#3 ∧ funct7Of w = 0#7
    · simp [hop, hf, rdOf, rs1Of, rs2Of]
    · simp [hop, hf]
  · simp [hop, rdOf]

/-! ### Words written out from the spec's layouts -/

/-- Settles O1: the decoder evaluated on the twelve words. -/
theorem specWordsDecode : Obligations.SpecWordsDecode := by
  unfold Obligations.SpecWordsDecode
  decide

end Sys2Proof.Machine

namespace Sys2Proof.Machine

/-! ### Every step and every clock edge answers -/

theorem step_answers (s : State) : ∃ t, step s = .next t := by
  obtain ⟨-, he⟩ | ⟨-, r, -, he⟩ | ⟨-, rd, rs1, rs2, -, he⟩ | ⟨-, rd, immJ, -, he⟩ := step_cases s
  all_goals exact ⟨_, he⟩

theorem clockEdge_answers (i : Inputs) (s : State) : ∃ t, clockEdge i s = .next t := by
  obtain ⟨-, he⟩ | ⟨-, -, -, he⟩ | ⟨-, -, -, -, he⟩ | ⟨-, -, he⟩ := clockEdge_cases s i
  · exact ⟨_, he⟩
  · rw [he]
    exact step_answers s
  · exact ⟨_, he⟩
  · exact ⟨_, he⟩

theorem clockRun_cons_of_next {i : Inputs} {s u : State} (h : clockEdge i s = .next u) (rest : List Inputs) :
    clockRun (i :: rest) s = clockRun rest u := by
  rw [clockRun, h]

/-- Settles O31, by induction on the inputs: each edge answers, and the rest of the run answers from there. -/
theorem clockRunAlwaysAnswers : Obligations.ClockRunAlwaysAnswers := by
  intro ins
  induction ins with
  | nil => exact fun s => ⟨s, rfl⟩
  | cons i rest ih =>
    intro s
    obtain ⟨u, hu⟩ := clockEdge_answers i s
    rw [clockRun_cons_of_next hu]
    exact ih u

/-! ### Commit or fault (40_execution_cycle.md R85, R89) -/

theorem State.retire_committed {s : State} (hs : s.status = .ready) (rd : RegIdx) (v n : Word) :
    Committed s (s.retire rd v n) n where
  pc := rfl
  nextPc := rfl
  status := hs
  faultCause := rfl
  faultPc := rfl
  faultTval := rfl
  started := rfl
  traceValid := rfl
  params := rfl
  memory := rfl
  bytes := fun _ => rfl

theorem State.readReg_retire_ne (s : State) {rd r : RegIdx} (v n : Word) (h : r ≠ rd) :
    (s.retire rd v n).readReg r = s.readReg r :=
  s.stage.readReg_writeReg_ne v h

theorem Cause.code_toNat_bounds (c : Cause) : 1 ≤ c.code.toNat ∧ c.code.toNat ≤ 4 := by
  cases c <;> decide

/-- Settles O22: of the three kinds of step, a READY core does not hold, a fault carries the code of its cause, and a
retired instruction writes its `rd` alone. -/
theorem stepCommitsOrFaults : Obligations.StepCommitsOrFaults := by
  intro s hs
  obtain ⟨t, ht⟩ := step_answers s
  refine ⟨t, ht, ?_⟩
  obtain ⟨hf, -⟩ | ⟨-, r, -, rfl⟩ | ⟨-, w, v, n, -, rfl, -⟩ := step_next_cases ht
  · simp [hs] at hf
  · exact .inr ⟨rfl, r.cause.code, r.tval, rfl, r.cause.code_toNat_bounds⟩
  · exact .inl ⟨hs, ⟨n, State.retire_committed hs (rdOf w) v n⟩, State.readReg_zero _,
      rdOf w, fun _ hr => s.readReg_retire_ne v n hr⟩

/-! ### The fetch unit (40_execution_cycle.md R75, R76) -/

theorem State.fetchUnit_of_ok {s : State} {w : Word} (h : s.fetchWord s.pc = .ok w) :
    s.fetchUnit = { instr := some w, fetchFault := none } := by
  rw [State.fetchUnit, h]

theorem State.fetchUnit_of_error {s : State} {r : Raised} (h : s.fetchWord s.pc = .error r) :
    s.fetchUnit = { instr := none, fetchFault := some r.cause } := by
  rw [State.fetchUnit, h]

/-- A fetch that passes both checks passes the bounds check, so memory drives a valid word, the one fetched. -/
theorem State.imemRdata_of_fetchWord_ok {s : State} {w : Word} (h : s.fetchWord s.pc = .ok w) :
    s.imemRdata = some w := by
  obtain ⟨-, he⟩ | ⟨-, -, he⟩ | ⟨-, hb, he⟩ := s.fetchWord_cases s.pc
  · simp [he] at h
  · simp [he] at h
  · obtain rfl : s.wordAt s.pc = w := by simpa [he] using h
    simp [State.imemRdata, hb]

theorem State.fetchWord_error_tval {s : State} {a : Word} {r : Raised} (h : s.fetchWord a = .error r) : r.tval = a := by
  obtain ⟨-, he⟩ | ⟨-, -, he⟩ | ⟨-, -, he⟩ := s.fetchWord_cases a
  · simp [he] at h; simp [← h]
  · simp [he] at h; simp [← h]
  · simp [he] at h

/-- Settles O19, by the outcome of the fetch at `pc`. -/
theorem fetchUnitPassesMemoryWord : Obligations.FetchUnitPassesMemoryWord := by
  intro s
  cases h : s.fetchWord s.pc with
  | error r =>
    obtain ⟨cause, tval⟩ := r
    obtain rfl : tval = s.pc := State.fetchWord_error_tval h
    simp [State.fetchUnit_of_error h]
  | ok w => simp [State.fetchUnit_of_ok h, State.imemRdata_of_fetchWord_ok h]

/-! ### A fetched word decides the step -/

/-- Settles O20: the fetched instruction is `i`, and staging and commit are the two record updates. -/
theorem stepRunsDecodedInstruction : Obligations.StepRunsDecodedInstruction := by
  intro s w i hs hw hd _
  rw [step_runs s hs (State.fetchInstr_of_decode hw hd)]
  rfl

/-! ### Clock edges (40_execution_cycle.md R87; 70_reset_and_hazards.md R127) -/

theorem seedApplies_iff (i : Inputs) (s : State) :
    seedApplies i s = true ↔ i.run = false ∧ i.seedWe = true ∧ s.started = false := by
  simp [seedApplies, and_assoc]

/-- Settles O25, by the branches of the edge in their order. -/
theorem clockEdgePriority : Obligations.ClockEdgePriority := by
  intro i s
  by_cases hrst : i.rst = true
  · simp [clockEdge, hrst]
  by_cases hrun : i.run = true ∧ s.status = .ready
  · simp [clockEdge, hrst, hrun]
  by_cases hseed : i.run = false ∧ i.seedWe = true ∧ s.started = false
  · simp [clockEdge, hrst, (seedApplies_iff i s).2 hseed, hseed, State.hold]
  · have hno : ¬ seedApplies i s = true := fun h => hseed ((seedApplies_iff i s).1 h)
    rw [if_neg hrst, if_neg hrun, if_neg hseed]
    simp [clockEdge, hrst, hrun, hno, State.hold]

/-! ### The pseudocode's operations as the model's (40_execution_cycle.md R88) -/

theorem pseudoRaise_eq_takeFault (s : State) (r : Raised) :
    pseudoRaise s r.cause.code.toNat r.tval.toNat = s.takeFault r := by
  simp [pseudoRaise, State.takeFault]

theorem pseudoCommit_eq_retire (s : State) (rd : RegIdx) (v n : Word) :
    pseudoCommit s rd.toNat v.toNat n.toNat = s.retire rd v n := by
  simp only [pseudoCommit, BitVec.ofNat_toNat, BitVec.setWidth_eq]
  rfl

theorem pseudoFetch_eq (s : State) : pseudoFetch s = (s.wordAt s.pc).toNat :=
  (leWord_toNat _ _ _ _).symm

/-- The four ranges of the word make `imm21`, and the sign extension adds `2^32 - 2^21` where bit 20 is set. -/
theorem pseudoImmJ_eq (w : Word) : pseudoImmJ w.toNat = (immJOf w).toNat := by
  have himm : w.toNat / 2 ^ 31 % 2 * 2 ^ 20 + w.toNat / 2 ^ 12 % 2 ^ 8 * 2 ^ 12 + w.toNat / 2 ^ 20 % 2 * 2 ^ 11
      + w.toNat / 2 ^ 21 % 2 ^ 10 * 2 = (imm21Of w).toNat := by
    simp only [imm21Of_toNat, toNat_extractLsb'_eq_digit]
    omega
  have hlow : ((imm21Of w).setWidth 32).toNat = (imm21Of w).toNat := BitVec.toNat_setWidth_of_le (by decide)
  rw [immJOf, BitVec.toNat_signExtend, hlow, BitVec.msb_eq_decide]
  simp only [pseudoImmJ, himm, decide_eq_true_eq]
  split_ifs <;> omega

/-! ### The digits of a word as its fields (30_encoding.md R56) -/

section
variable (w : Word)

theorem ofNat_digit_eq_extractLsb' (i : Nat) : BitVec.ofNat 5 (w.toNat / 2 ^ i % 32) = w.extractLsb' i 5 := by
  rw [BitVec.toNat_eq, toNat_extractLsb'_eq_digit, BitVec.toNat_ofNat]
  exact Nat.mod_mod _ _

theorem digit_eq_rdOf : w.toNat / 2 ^ 7 % 32 = (rdOf w).toNat := (toNat_extractLsb'_eq_digit w 7 5).symm

theorem digit_eq_opcode_iff (op : BitVec 7) : w.toNat % 128 = op.toNat ↔ opcodeOf w = op := by
  rw [BitVec.toNat_eq, opcodeOf, toNat_extractLsb'_eq_digit]
  omega

theorem digits_eq_functPair_iff :
    w.toNat / 2 ^ 12 % 8 = 0 ∧ w.toNat / 2 ^ 25 = 0 ↔ funct3Of w = 0#3 ∧ funct7Of w = 0#7 := by
  simp only [BitVec.toNat_eq, funct3Of, funct7Of, toNat_extractLsb'_eq_digit, BitVec.toNat_ofNat]
  omega

/-- The pseudocode on a fetched word, by the tests of `decode_eq` and with the answers of `step_cases`. -/
theorem pseudoExecute_eq (s : State) :
    pseudoExecute s w.toNat =
      if opcodeOf w = 0x33#7 then
        (if funct3Of w = 0#3 ∧ funct7Of w = 0#7 then addNext s (rdOf w) (rs1Of w) (rs2Of w)
        else s.takeFault (raisedByWord .unimplemented w))
      else if opcodeOf w = 0x6F#7 then jalNext s (rdOf w) (immJOf w)
      else s.takeFault (raisedByWord .illegal w) := by
  have hR : w.toNat % 128 = 0x33 ↔ opcodeOf w = 0x33#7 := digit_eq_opcode_iff w 0x33#7
  have hJ : w.toNat % 128 = 0x6F ↔ opcodeOf w = 0x6F#7 := digit_eq_opcode_iff w 0x6F#7
  have hsum (a b : Word) : (a.toNat + b.toNat) % 2 ^ 32 = (aluAdd a b).toNat := (BitVec.toNat_ofNat ..).symm
  have hlink : (s.pc.toNat + 4) % 2 ^ 32 = (s.pc + 4#32).toNat := (BitVec.toNat_add s.pc 4#32).symm
  have htarget : (s.pc.toNat + (immJOf w).toNat) % 2 ^ 32 = (s.pc + immJOf w).toNat := (BitVec.toNat_add ..).symm
  simp only [pseudoExecute, hR, hJ, digits_eq_functPair_iff, ofNat_digit_eq_extractLsb', digit_eq_rdOf, pseudoImmJ_eq]
  split_ifs
  · rw [hsum, hlink, pseudoCommit_eq_retire, addNext_eq_retire, rs1Of, rs2Of]
  · exact pseudoRaise_eq_takeFault s (raisedByWord .unimplemented w)
  · rw [hlink, htarget, pseudoCommit_eq_retire, jalNext_eq_retire]
  · exact pseudoRaise_eq_takeFault s (raisedByWord .illegal w)

end

/-! ### The step by its fetch -/

theorem State.fetchInstr_of_fetch_error {s : State} {r : Raised} (h : s.fetchWord s.pc = .error r) :
    s.fetchInstr = .error r := by
  simp [State.fetchInstr, h]

theorem State.fetchInstr_of_decode_error {s : State} {w : Word} {e : DecodeError} (hw : s.fetchWord s.pc = .ok w)
    (hd : decode w = .error e) : s.fetchInstr = .error (raisedByWord e w) := by
  simp [State.fetchInstr, hw, hd]

theorem step_of_fetchWord {s : State} (hs : s.status = .ready) {w : Word} (hw : s.fetchWord s.pc = .ok w) :
    step s = .next (pseudoExecute s w.toNat) := by
  have hd := decode_eq w
  rw [pseudoExecute_eq]
  split_ifs at hd ⊢
  · exact step_add hs (State.fetchInstr_of_decode hw hd)
  · exact step_raises s hs (State.fetchInstr_of_decode_error hw hd)
  · exact step_jal hs (State.fetchInstr_of_decode hw hd)
  · exact step_raises s hs (State.fetchInstr_of_decode_error hw hd)

/-- Settles O21, by the three answers of the fetch; a fetched word is `step_of_fetchWord`. -/
theorem stepIsPseudocode : Obligations.StepIsPseudocode := by
  intro s hs
  simp only [pseudoStep, ← misalignedFetch_iff, ← outOfBoundsFetch_iff]
  obtain ⟨hm, he⟩ | ⟨hm, hb, he⟩ | ⟨hm, hb, he⟩ := s.fetchWord_cases s.pc
  · rw [if_pos hm, step_raises s hs (State.fetchInstr_of_fetch_error he)]
    exact congrArg _ (pseudoRaise_eq_takeFault s _).symm
  · rw [if_neg (by simp [hm]), if_pos hb, step_raises s hs (State.fetchInstr_of_fetch_error he)]
    exact congrArg _ (pseudoRaise_eq_takeFault s _).symm
  · rw [if_neg (by simp [hm]), if_neg (by simp [hb]), pseudoFetch_eq]
    exact step_of_fetchWord hs he

end Sys2Proof.Machine

namespace Sys2Proof.Machine

/-! ### Sums of words as numbers (41_integer_arithmetic.md R93; 10_state.md R28) -/

theorem ofNat_toNat_add_mod (a b : Word) : BitVec.ofNat 32 ((a.toNat + b.toNat) % 2 ^ 32) = a + b := by
  rw [← BitVec.toNat_add, BitVec.ofNat_toNat, BitVec.setWidth_eq]

/-- The ALU is word addition, whose unsigned and signed readings are the library's. -/
theorem aluAdd_eq_add (a b : Word) : aluAdd a b = a + b :=
  BitVec.eq_of_toNat_eq <| (BitVec.toNat_ofNat _ 32).trans (BitVec.toNat_add a b).symm

/-! ### ADD: the handler and the step (41_integer_arithmetic.md R96) -/

/-- Settles O11: the handler is one register write of the ALU's sum, so the file reads as after a write. -/
theorem addCompletes : Obligations.AddCompletes := by
  intro s rd rs1 rs2
  refine ⟨_, exec_add s rd rs1 rs2, fun r => ?_, rfl, fun _ => rfl⟩
  rw [aluAdd_eq_add, ofNat_toNat_add_mod]
  exact s.readReg_writeReg rd r _

theorem step_of_add_row {s : State} {w : Word} (hs : s.status = .ready) (hw : s.fetchWord s.pc = .ok w)
    (hrow : w &&& 0xFE00707F#32 = 0x00000033#32) :
    step s = .next (s.retire (rdOf w) (s.readReg (rs1Of w) + s.readReg (rs2Of w)) (s.pc + 4#32)) := by
  rw [step_add hs (State.fetchInstr_of_decode hw (decode_of_add_row hrow)), addNext_eq_retire, aluAdd_eq_add]

/-- The R-type opcode without ADD's row has no row at all (30_encoding.md R70). -/
theorem decode_of_other_opcR {w : Word} (hmask : w &&& 0x0000007F#32 = 0x00000033#32)
    (hrow : w &&& 0xFE00707F#32 ≠ 0x00000033#32) : decode w = .error .unimplemented := by
  have hop : opcodeOf w = 0x33#7 := (and_opcodeMask_eq_iff w 0x33#7).1 hmask
  have hpair : ¬ (funct3Of w = 0#3 ∧ funct7Of w = 0#7) := fun hf => hrow ((addRow_iff w).2 ⟨hop, hf⟩)
  rw [decode_of_opcR hop, if_neg hpair]

/-- Settles O13: a word in ADD's row retires the sum, and any other R-type word takes the decoder's fault. -/
theorem addStepCommits : Obligations.AddStepCommits := by
  intro s w hs hw
  constructor
  · intro hrow
    have hpc : BitVec.ofNat 32 ((s.pc.toNat + 4) % 2 ^ 32) = s.pc + 4#32 := ofNat_toNat_add_mod s.pc 4#32
    refine ⟨_, step_of_add_row hs hw hrow, ?_, fun r => ?_⟩
    · rw [hpc]
      exact State.retire_committed hs _ _ _
    · rw [ofNat_toNat_add_mod]
      exact s.readReg_retire (rdOf w) r _ _
  · intro hmask hrow
    have hd := decode_of_other_opcR hmask hrow
    exact ⟨_, step_raises s hs (State.fetchInstr_of_decode_error hw hd), rfl⟩

/-- Settles O10: both readings of the sum are those of word addition. -/
theorem aluAddsModulo : Obligations.AluAddsModulo := by
  intro a b
  rw [aluAdd_eq_add]
  exact ⟨BitVec.toNat_add a b, BitVec.toInt_add a b⟩

end Sys2Proof.Machine

namespace Sys2Proof.Machine

/-! ### JAL: the handler and the step (42_control_transfer.md R97) -/

/-- Settles O12: the handler is one register write of the staged link and one write of `next_pc`, the wrapping sum. -/
theorem jalCompletes : Obligations.JalCompletes := by
  intro s rd immJ
  refine ⟨_, exec_jal s rd immJ, fun r => ?_, ?_, fun _ => rfl⟩
  · rw [State.writeNextPc_readReg]
    exact s.readReg_writeReg rd r s.nextPc
  · rw [ofNat_toNat_add_mod]
    rfl

theorem step_of_jal_row {s : State} {w : Word} (hs : s.status = .ready) (hw : s.fetchWord s.pc = .ok w)
    (hrow : w &&& 0x0000007F#32 = 0x0000006F#32) :
    step s = .next (s.retire (rdOf w) (s.pc + 4#32) (s.pc + immJOf w)) := by
  rw [step_jal hs (State.fetchInstr_of_decode hw (decode_of_jal_row hrow)), jalNext_eq_retire]

/-! ### A bad target faults at its own fetch (42_control_transfer.md R98) -/

theorem State.fetchWord_of_misaligned {s : State} {a : Word} (hc : s.params.fetchAlignCheck = true)
    (ha : a.toNat % 4 ≠ 0) : s.fetchWord a = .error { cause := .fetchMisaligned, tval := a } := by
  have h := fetchWordByCases s a
  rwa [if_pos ⟨hc, ha⟩] at h

theorem State.fetchWord_of_outOfBounds {s : State} {a : Word} (ha : s.params.fetchAlignCheck = true → a.toNat % 4 = 0)
    (hb : s.params.memSize ≤ a.toNat + 3) : s.fetchWord a = .error { cause := .fetchOutOfBounds, tval := a } := by
  have h := fetchWordByCases s a
  rwa [if_neg fun hm => hm.2 (ha hm.1), if_pos hb] at h

theorem step_faulted_of_fetchWord_error {s : State} (hs : s.status = .ready) {r : Raised}
    (h : s.fetchWord s.pc = .error r) : ∃ u, step s = .next u ∧ Faulted s u r.cause.code r.tval :=
  ⟨_, step_raises s hs (State.fetchInstr_of_fetch_error h), rfl⟩

/-- Settles O14: the step retires the link whatever its target, and the core it leaves, READY at the target with the
same parameters, takes the fault of that fetch. -/
theorem jalStepCommits : Obligations.JalStepCommits := by
  intro s w hs hw hrow
  have hcommit := State.retire_committed hs (rdOf w) (s.pc + 4#32) (s.pc + immJOf w)
  refine ⟨_, step_of_jal_row hs hw hrow, hcommit, fun r => s.readReg_retire (rdOf w) r _ _, fun hc hpc => ?_,
    fun hpc hb => ?_⟩
  · exact step_faulted_of_fetchWord_error hcommit.status (State.fetchWord_of_misaligned hc hpc)
  · exact step_faulted_of_fetchWord_error hcommit.status (State.fetchWord_of_outOfBounds hpc hb)

/-! ### A jump to itself (42_control_transfer.md R97; 40_execution_cycle.md R90) -/

theorem clockEdge_eq_step {i : Inputs} {s : State} (hs : s.status = .ready) (hi : i.rst = false ∧ i.run = true) :
    clockEdge i s = step s := by
  simp [clockEdge, hi, hs]

/-- A READY state that its own step answers is answered by any run of enabled edges. -/
theorem clockRun_of_step_fixed {s : State} (hs : s.status = .ready) (h : step s = .next s) (ins : List Inputs)
    (hins : ∀ i ∈ ins, i.rst = false ∧ i.run = true) : clockRun ins s = .next s := by
  induction ins with
  | nil => rfl
  | cons i rest ih =>
    obtain ⟨hi, hrest⟩ := List.forall_mem_cons.1 hins
    rw [clockRun_cons_of_next ((clockEdge_eq_step hs hi).trans h), ih hrest]

theorem step_of_selfJump {s : State} (hs : s.status = .ready) (hw : s.fetchWord s.pc = .ok 0x0000006F#32) :
    step s = .next { s with started := true, traceValid := true, nextPc := s.pc } := by
  have hrd : rdOf 0x0000006F#32 = 0#5 := by decide
  have himm : immJOf 0x0000006F#32 = 0#32 := by decide
  rw [step_of_jal_row hs hw (by decide), hrd, himm, BitVec.add_zero]
  rfl

/-- Settles O15: the first edge gives the state the loop stays in, which the next step answers again since it fetches
the same word. -/
theorem selfJumpLoopsForever : Obligations.SelfJumpLoopsForever := by
  intro ins s hs hw hne hins
  cases ins with
  | nil => exact absurd rfl hne
  | cons i rest =>
    obtain ⟨hi, hrest⟩ := List.forall_mem_cons.1 hins
    rw [clockRun_cons_of_next ((clockEdge_eq_step hs hi).trans (step_of_selfJump hs hw))]
    refine clockRun_of_step_fixed ?_ ?_ rest hrest
    · exact hs
    · exact step_of_selfJump hs hw

end Sys2Proof.Machine

namespace Sys2Proof.Machine

/-! ### Which fault a step takes (60_exceptions.md R102 to R110) -/

theorem decode_of_other_opcode {w : Word} (hR : w &&& 0x0000007F#32 ≠ 0x00000033#32)
    (hJ : w &&& 0x0000007F#32 ≠ 0x0000006F#32) : decode w = .error .illegal := by
  have hopR : opcodeOf w ≠ 0x33#7 := fun h => hR ((and_opcodeMask_eq_iff w 0x33#7).2 h)
  have hopJ : opcodeOf w ≠ 0x6F#7 := fun h => hJ ((and_opcodeMask_eq_iff w 0x6F#7).2 h)
  rw [decode_eq, if_neg hopR, if_neg hopJ]

theorem step_faulted_of_decode_error {s : State} (hs : s.status = .ready) {w : Word} {e : DecodeError}
    (hw : s.fetchWord s.pc = .ok w) (hd : decode w = .error e) :
    ∃ t, step s = .next t ∧ Faulted s t (raisedByWord e w).cause.code (raisedByWord e w).tval :=
  ⟨_, step_raises s hs (State.fetchInstr_of_decode_error hw hd), rfl⟩

/-- A word in one of the two rows of the opcode table retires. -/
theorem step_retires_of_row {s : State} (hs : s.status = .ready) {w : Word} (hw : s.fetchWord s.pc = .ok w)
    (hrow : w &&& 0xFE00707F#32 = 0x00000033#32 ∨ w &&& 0x0000007F#32 = 0x0000006F#32) :
    ∃ v n, step s = .next (s.retire (rdOf w) v n) := by
  obtain hadd | hjal := hrow
  · exact ⟨_, _, step_of_add_row hs hw hadd⟩
  · exact ⟨_, _, step_of_jal_row hs hw hjal⟩

/-- The step of a READY core on a fetched word, in the order of the decoder's two levels. -/
theorem step_faults_by_word {s : State} (hs : s.status = .ready) {w : Word} (hw : s.fetchWord s.pc = .ok w) :
    ∃ t, step s = .next t ∧
      if w &&& 0x0000007F#32 ≠ 0x00000033#32 ∧ w &&& 0x0000007F#32 ≠ 0x0000006F#32 then Faulted s t 1#3 w
      else if w &&& 0x0000007F#32 = 0x00000033#32 ∧ w &&& 0xFE00707F#32 ≠ 0x00000033#32 then Faulted s t 2#3 w
      else t.status = .ready ∧ t.faultCause = s.faultCause ∧ t.faultPc = s.faultPc ∧ t.faultTval = s.faultTval := by
  split_ifs with hill hunimpl
  · exact step_faulted_of_decode_error hs hw (decode_of_other_opcode hill.1 hill.2)
  · exact step_faulted_of_decode_error hs hw (decode_of_other_opcR hunimpl.1 hunimpl.2)
  · obtain ⟨v, n, he⟩ := step_retires_of_row hs hw (by tauto)
    exact ⟨_, he, hs, rfl, rfl, rfl⟩

/-- Settles O23: a bad fetch faults in the order of its checks, and a good one leaves the fault to the word. -/
theorem stepFaultsByPriority : Obligations.StepFaultsByPriority := by
  intro s hs
  split_ifs with hmis hbound
  · exact step_faulted_of_fetchWord_error hs (State.fetchWord_of_misaligned hmis.1 hmis.2)
  · exact step_faulted_of_fetchWord_error hs (State.fetchWord_of_outOfBounds (by tauto) hbound)
  · have hfetch := fetchWordByCases s s.pc
    rw [if_neg hmis, if_neg hbound] at hfetch
    obtain ⟨w, hw, -⟩ := hfetch
    obtain ⟨t, ht, hcases⟩ := step_faults_by_word hs hw
    exact ⟨t, ht, w, hw, hcases⟩

/-! ### Edges at which nothing applies (60_exceptions.md R112, R113; 40_execution_cycle.md R87) -/

theorem clockRun_of_edges_fixed {u : State} {ins : List Inputs} (h : ∀ i ∈ ins, clockEdge i u = .next u) :
    clockRun ins u = .next u := by
  induction ins with
  | nil => rfl
  | cons i rest ih =>
    obtain ⟨hi, hrest⟩ := List.forall_mem_cons.1 h
    rw [clockRun_cons_of_next hi, ih hrest]

/-- Only the first of a run of holding edges can change anything, since it leaves a state that the next one holds. -/
theorem clockRun_of_edges_hold {s : State} {ins : List Inputs} (h : ∀ i ∈ ins, clockEdge i s = .next s.hold)
    (hheld : ∀ i ∈ ins, clockEdge i s.hold = .next s.hold) :
    clockRun ins s = .next (if ins = [] then s else s.hold) := by
  cases ins with
  | nil => rfl
  | cons i rest =>
    rw [clockRun_cons_of_next (List.forall_mem_cons.1 h).1, if_neg (List.cons_ne_nil i rest)]
    exact clockRun_of_edges_fixed (List.forall_mem_cons.1 hheld).2

/-- A FAULTED core takes no step, and one that has started takes no seed. -/
theorem clockEdge_of_faulted {i : Inputs} {s : State} (hs : s.status = .faulted) (hst : s.started = true)
    (hrst : i.rst = false) : clockEdge i s = .next s.hold := by
  obtain ⟨hr, -⟩ | ⟨-, -, hready, -⟩ | ⟨-, -, -, hno, -⟩ | ⟨-, -, he⟩ := clockEdge_cases s i
  · simp [hrst] at hr
  · simp [hs] at hready
  · simp [hst] at hno
  · exact he

/-- Settles O32: by the invariant a FAULTED core has started, so every edge without reset holds it. -/
theorem faultedCoreHolds : Obligations.FaultedCoreHolds := by
  intro ins s hinv hs hrst
  have hst : s.started = true := (hinv.faulted hs).1
  exact clockRun_of_edges_hold (fun i hi => clockEdge_of_faulted hs hst (hrst i hi))
    (fun i hi => clockEdge_of_faulted (s := s.hold) hs hst (hrst i hi))

/-! ### The outputs (60_exceptions.md R121; 40_execution_cycle.md R75) -/

theorem State.outputs_traceRegs_getElem (s : State) (k : Fin 32) :
    s.outputs.traceRegs[k] = s.readReg (BitVec.ofNat 5 k.val) :=
  Vector.getElem_ofFn k.isLt

theorem State.outputs_faulted_iff (s : State) : s.outputs.faulted = true ↔ s.status = .faulted :=
  decide_eq_true_iff

theorem step_traceValid_iff {s t : State} (hs : s.status = .ready) (h : step s = .next t) :
    t.traceValid = true ↔ t.status = .ready := by
  obtain ⟨hf, -⟩ | ⟨-, r, -, rfl⟩ | ⟨-, w, v, n, -, rfl, -⟩ := step_next_cases h
  · simp [hs] at hf
  · simp
  · exact iff_of_true rfl hs

/-- Settles O38: a step sets `trace_valid` where it retires and clears it where it faults; the other outputs are wires. -/
theorem traceShowsTheStep : Obligations.TraceShowsTheStep := by
  intro s t hs h
  exact ⟨step_traceValid_iff hs h, rfl, rfl, t.outputs_traceRegs_getElem, t.outputs_faulted_iff, rfl, rfl, rfl⟩

end Sys2Proof.Machine

namespace Sys2Proof.Machine

/-! ### Edges with `run` = 0 (70_reset_and_hazards.md R122, R127, R136; 40_execution_cycle.md R87) -/

theorem clockEdge_of_reset {i : Inputs} (s : State) (h : i.rst = true) : clockEdge i s = .next s.resetCore := by
  simp [clockEdge, h]

/-- Settles O26: the state after a reset edge is `State.resetCore`. -/
theorem resetEdgeRestores : Obligations.ResetEdgeRestores := by
  intro i s hrst
  exact ⟨s.resetCore, clockEdge_of_reset s hrst, s.resetCore_readReg, rfl, rfl, rfl, rfl, rfl, rfl, rfl, rfl, rfl, rfl⟩

theorem clockEdge_of_not_run {i : Inputs} {s : State} (hrst : i.rst = false) (hrun : i.run = false)
    (hseed : i.seedWe = false ∨ s.started = true) : clockEdge i s = .next s.hold := by
  have hno : ¬ seedApplies i s = true := by
    rw [seedApplies_iff]
    rintro ⟨-, hwe, hst⟩
    simp [hwe, hst] at hseed
  simp [clockEdge, hrst, hrun, hno]

/-- Settles O33: every such edge holds the state, and holds the held state too. -/
theorem holdsWhileNotRun : Obligations.HoldsWhileNotRun := by
  intro ins s h
  refine clockRun_of_edges_hold (fun i hi => ?_) (fun i hi => ?_)
  all_goals obtain ⟨hrst, hrun, hseed⟩ := h i hi
  · exact clockEdge_of_not_run hrst hrun hseed
  · exact clockEdge_of_not_run (s := s.hold) hrst hrun hseed

theorem clockEdge_of_seed {i : Inputs} {s : State} (hrst : i.rst = false) (hrun : i.run = false)
    (hwe : i.seedWe = true) (hst : s.started = false) :
    clockEdge i s = .next (s.hold.writeReg i.seedIdx i.seedData) := by
  simp [clockEdge, hrst, hrun, (seedApplies_iff i s).2 ⟨hrun, hwe, hst⟩]

/-- Settles O39: before the first step the edge writes the register, after it the edge holds. -/
theorem seedOnlyBeforeFirstStep : Obligations.SeedOnlyBeforeFirstStep := by
  intro i s hrst hrun hwe
  by_cases hst : s.started = false
  · refine ⟨_, clockEdge_of_seed hrst hrun hwe hst, rfl, fun r => ?_⟩
    simp [State.readReg_writeReg, hst]
  · refine ⟨_, clockEdge_of_not_run hrst hrun (.inr (by simpa using hst)), rfl, fun r => ?_⟩
    by_cases hr : r = 0#5
    · simp [hr]
    · simp [hr, hst]

/-! ### What the host's moves leave in memory (70_reset_and_hazards.md R126, R130; 20_memory.md R38, R39) -/

theorem State.memByte_write (s : State) (a k : Nat) (b : Byte) :
    State.memByte { s with mem := s.mem.write a b } k = if k = a then b else s.memByte k := by
  simp only [State.memByte, Memory.lookup_write]
  split <;> rfl

theorem hostWriteByte_of_inside {a : Nat} (b : Byte) {s : State} (hst : s.started = false)
    (ha : a < s.params.memSize) : hostWriteByte a b s = .next { s with mem := s.mem.write a b } := by
  simp [hostWriteByte, hst, Nat.not_le.2 ha]

/-- Settles O40, by the three answers of the move; the written byte is read back. -/
theorem hostWriteChangesOneByte : Obligations.HostWriteChangesOneByte := by
  intro a b s
  split_ifs with hst ha
  · simp [hostWriteByte, hst]
  · simp [hostWriteByte, hst, ha]
  · exact ⟨_, hostWriteByte_of_inside b (by simpa using hst) (Nat.not_le.1 ha), rfl, fun k => s.memByte_write a k b⟩

/-- The state with an image at address 0, which `loadImage` answers: `loadImage_of_fits`. -/
def State.withImage (s : State) (image : List Word) : State :=
  { s with mem := s.mem.writeBytes 0 (image.flatMap wordBytes) }

@[simp] theorem State.withImage_params (s : State) (image : List Word) : (s.withImage image).params = s.params := rfl
@[simp] theorem State.withImage_readReg (s : State) (image : List Word) (r : RegIdx) :
    (s.withImage image).readReg r = s.readReg r := rfl

theorem loadImage_of_fits {s : State} {image : List Word} (hst : s.started = false)
    (h : 4 * image.length ≤ s.params.memSize) : loadImage image s = .next (s.withImage image) := by
  simp [loadImage, hst, Nat.not_lt.2 h, State.withImage]

theorem getElem?_flatMap_wordBytes (image : List Word) (k : Nat) {j : Nat} (hj : j < 4) :
    (image.flatMap wordBytes)[4 * k + j]? = image[k]?.map (leByte · j) := by
  induction image generalizing k with
  | nil => rfl
  | cons w rest ih =>
    rw [List.flatMap_cons]
    cases k with
    | zero => interval_cases j <;> rfl
    | succ k =>
      have hskip : (wordBytes w).length ≤ 4 * (k + 1) + j := by simp [wordBytes]; omega
      rw [List.getElem?_append_right hskip, List.getElem?_cons_succ, ← ih k]
      congr 1
      simp [wordBytes]; omega

theorem State.withImage_memByte (s : State) (image : List Word) (a : Nat) :
    (s.withImage image).memByte a = (image.flatMap wordBytes)[a]?.getD (s.memByte a) := by
  simp only [State.memByte, State.withImage, Memory.lookup_writeBytes]
  cases (image.flatMap wordBytes)[a]? <;> simp

theorem State.withImage_memByte_of_lt (s : State) {image : List Word} {k j : Nat} (hk : k < image.length)
    (hj : j < 4) : (s.withImage image).memByte (4 * k + j) = leByte image[k] j := by
  rw [State.withImage_memByte, getElem?_flatMap_wordBytes image k hj, List.getElem?_eq_getElem hk]
  rfl

theorem State.withImage_memByte_of_ge (s : State) {image : List Word} {a : Nat} (ha : 4 * image.length ≤ a) :
    (s.withImage image).memByte a = s.memByte a := by
  rw [State.withImage_memByte, List.getElem?_eq_none (by rwa [length_flatMap_wordBytes])]
  rfl

/-- The little-endian bytes of a word make the word (20_memory.md R38). -/
theorem leWord_leByte (w : Word) : leWord (leByte w 0) (leByte w 1) (leByte w 2) (leByte w 3) = w := by
  simp only [BitVec.toNat_eq, leWord_toNat, leByte, toNat_extractLsb'_eq_digit]
  omega

theorem State.withImage_wordAt (s : State) {image : List Word} {k : Nat} {a : Word} (hk : k < image.length)
    (ha : a.toNat = 4 * k) : (s.withImage image).wordAt a = image[k] := by
  have hbyte (j : Nat) (hj : j < 4) := s.withImage_memByte_of_lt hk hj
  have h0 : (s.withImage image).memByte (4 * k) = leByte image[k] 0 := hbyte 0 (by decide)
  rw [State.wordAt, ha, h0, hbyte 1 (by decide), hbyte 2 (by decide), hbyte 3 (by decide), leWord_leByte]

theorem State.fetchWord_of_valid {s : State} {a : Word} (hal : a.toNat % 4 = 0)
    (hin : a.toNat + 3 < s.params.memSize) : s.fetchWord a = .ok (s.wordAt a) := by
  have hm : ¬ misalignedFetch s.params a = true := fun h => ((misalignedFetch_iff _ a).1 h).2 hal
  have hb : ¬ outOfBoundsFetch s.params a = true := fun h => by
    have := (outOfBoundsFetch_iff _ a).1 h
    omega
  rw [State.fetchWord, if_neg hm, if_neg hb]

/-- Settles O41: the load answers `State.withImage`, whose bytes are the image's and make its words again. -/
theorem loadedImageIsFetched : Obligations.LoadedImageIsFetched := by
  intro s image hst hlegal hfits
  refine ⟨s.withImage image, loadImage_of_fits hst hfits, rfl, fun k hk j hj => s.withImage_memByte_of_lt hk hj,
    fun a ha => s.withImage_memByte_of_ge ha, fun k hk => ?_⟩
  have hsize : s.params.memSize ≤ 2 ^ 32 := hlegal.2
  have ha : (BitVec.ofNat 32 (4 * k)).toNat = 4 * k := Nat.mod_eq_of_lt (by omega)
  rw [State.fetchWord_of_valid (by omega) (by rw [State.withImage_params]; omega), s.withImage_wordAt hk ha]

/-! ### The boot order (70_reset_and_hazards.md R127 to R129) -/

/-- Seed edges before the first step are the register writes in order; `trace_valid` is already 0, so holding it changes
nothing. -/
theorem clockRun_seedEdges (ws : List (RegIdx × Word)) {s : State} (hst : s.started = false)
    (htrace : s.traceValid = false) : clockRun (seedEdges ws) s = .next (writeRegs ws s) := by
  induction ws generalizing s with
  | nil => rfl
  | cons w ws ih =>
    have hhold : s.hold = s := by rw [State.hold, ← htrace]
    have hedge := clockEdge_of_seed rfl rfl rfl hst
      (i := { rst := false, run := false, seedWe := true, seedIdx := w.1, seedData := w.2 })
    rw [hhold] at hedge
    exact (clockRun_cons_of_next hedge (seedEdges ws)).trans (ih hst htrace)

theorem State.Launch.writeReg {s : State} (h : s.Launch) (i : RegIdx) (v : Word) : (s.writeReg i v).Launch :=
  { h with x0 := State.readReg_zero _ }

theorem State.Launch.writeRegs {s : State} (h : s.Launch) (ws : List (RegIdx × Word)) : (writeRegs ws s).Launch := by
  induction ws generalizing s with
  | nil => exact h
  | cons w ws ih => exact ih (h.writeReg w.1 w.2)

theorem State.resetCore_withImage_launch (s : State) (image : List Word) : (s.resetCore.withImage image).Launch where
  pc := rfl
  nextPc := rfl
  status := rfl
  faultCause := rfl
  faultPc := rfl
  faultTval := rfl
  started := rfl
  x0 := rfl

/-- Settles O42: the reset core with the image is a launch state, and the seeds are writes of its registers, which
read 0, and leave its memory. -/
theorem bootReachesLaunchState : Obligations.BootReachesLaunchState := by
  intro s i image seeds hfits
  have hseed := clockRun_seedEdges seeds (s := s.resetCore.withImage image) rfl rfl
  have hbyte := State.memByte_congr (clockRun_frame hseed).1
  refine ⟨s.resetCore, s.resetCore.withImage image, _, clockEdge_of_reset s rfl, loadImage_of_fits rfl hfits, hseed,
    (s.resetCore_withImage_launch image).writeRegs seeds, fun r => ?_, fun k hk j hj => ?_, fun a ha => ?_⟩
  · rw [readReg_writeRegs, State.withImage_readReg, State.resetCore_readReg]
  · rw [hbyte]
    exact s.resetCore.withImage_memByte_of_lt hk hj
  · rw [hbyte]
    exact s.resetCore.withImage_memByte_of_ge ha

end Sys2Proof.Machine
